-- ==== Sys2Proof/Word.lean ====
section
/-! DEFINITION. The widths of ICODEC's signals (00_scope.md R6, R7, R13; 10_state.md R27 to R29). -/

namespace Sys2Proof

/-- An instruction word: WORD_W = 16 bits, numbered 15 (most significant) to 0 (R6, R8). -/
abbrev Word := BitVec 16

/-- A sign-extended immediate on a port: NATIVE_W = 16 bits (R7). -/
abbrev NativeWord := BitVec 16

/-- A register operand: REG_W = 3 bits, the index of one of R0 to R7 (R6). The block holds no register contents (R21). -/
abbrev Reg := BitVec 3

/-- One character code, 8 bits (R13). -/
abbrev Byte := BitVec 8

/-- A string: a finite sequence of character codes (R13). TEXT_MAX is unbounded (R7). -/
abbrev Text := List Byte

/-- A string written by its characters; every character used in a rule is an ASCII code (R13). -/
def chars (cs : List Char) : Text := cs.map fun c => BitVec.ofNat 8 c.toNat

end Sys2Proof
end

