-- ==== Sys2Proof/Config.lean ====
section
/-! DEFINITION. The named parameters of 00_scope.md R7, each with the value the spec takes. NATIVE_W is the width of
`NativeWord` (Word.lean); TEXT_MAX is unbounded, so no constant stands for it. -/

namespace Sys2Proof.Config

/-- NOT_FILL: bits 5 to 0 of an encoded NOT (30_encoding.md R70). `encodeWith` takes the fill as an argument, so that
claims can be made for every value of it. -/
def notFill : BitVec 6 := 0b111111#6

/-- BR_BARE_NZP: n, z, p of the bare mnemonic `BR` (42_control.md R151). -/
def brBareNzp : BitVec 3 := 0b111#3

/-- REG_RANGE_CHECK = true: the highest register index a register token may name (45_text_encode.md R239). -/
def regMax : Nat := 7

/-- WS: space, tab, line feed, carriage return (44_text_decode.md R211). -/
def ws : List Byte := [0x20#8, 0x09#8, 0x0A#8, 0x0D#8]

end Sys2Proof.Config
end

