-- ==== Sys2Proof/Syntax.lean ====
section
/-! DEFINITION. The instructions ICODEC translates: one constructor for each of the 27 rows of spec/opcode_table.json
(30_encoding.md R66, R73; the type is R101's, with BR's eight n, z, p rows told apart and the illegal row added). -/

namespace Sys2Proof

/-- A decoded instruction. Registers are 3-bit indexes; a signed operand is the integer it stands for (R101), in range
only when the instruction is well-formed: an encoder may be handed any integer, and truncates it (R65). -/
inductive Instr where
  /-- ADD, register form: kind ADD_R, FMT_RRR (R130, R132). -/
  | addR (dr sr1 sr2 : Reg)
  /-- ADD, immediate form: kind ADD_I, FMT_RRI5 (R131, R133). -/
  | addI (dr sr1 : Reg) (imm5 : Int)
  /-- AND, register form: kind AND_R, FMT_RRR (R134, R136). -/
  | andR (dr sr1 sr2 : Reg)
  /-- AND, immediate form: kind AND_I, FMT_RRI5 (R135, R137). -/
  | andI (dr sr1 : Reg) (imm5 : Int)
  /-- BR with n, z, p = 000, printed `BRnzp` (R150, R219). -/
  | brNone (off9 : Int)
  /-- BR with n, z, p = 001, `BRp`. -/
  | brP (off9 : Int)
  /-- BR with n, z, p = 010, `BRz`. -/
  | brZ (off9 : Int)
  /-- BR with n, z, p = 011, `BRzp`. -/
  | brZP (off9 : Int)
  /-- BR with n, z, p = 100, `BRn`. -/
  | brN (off9 : Int)
  /-- BR with n, z, p = 101, `BRnp`. -/
  | brNP (off9 : Int)
  /-- BR with n, z, p = 110, `BRnz`. -/
  | brNZ (off9 : Int)
  /-- BR with n, z, p = 111, `BRnzp`. -/
  | brNZP (off9 : Int)
  /-- JMP: FMT_BASE (R152, R153). The decoder gives it with a base other than 7 only. -/
  | jmp (base : Reg)
  /-- RET: FMT_BASE with baseR = 7 (R154, R155). -/
  | ret
  /-- JSR: FMT_JSR (R156, R157). -/
  | jsr (off11 : Int)
  /-- JSRR: FMT_JSRR (R158, R159). -/
  | jsrr (base : Reg)
  /-- LD: FMT_RO9 (R180, R181). -/
  | ld (dr : Reg) (off9 : Int)
  /-- LDI: FMT_RO9 (R182, R183). -/
  | ldi (dr : Reg) (off9 : Int)
  /-- LEA: FMT_RO9 (R186, R187). -/
  | lea (dr : Reg) (off9 : Int)
  /-- LDR: FMT_RBO6 (R184, R185). -/
  | ldr (dr base : Reg) (off6 : Int)
  /-- NOT: FMT_RR (R138, R139). -/
  | notR (dr sr : Reg)
  /-- RTI: FMT_NONE (R160, R161). -/
  | rti
  /-- ST: FMT_RO9 (R188, R189). -/
  | st (sr : Reg) (off9 : Int)
  /-- STI: FMT_RO9 (R190, R191). -/
  | sti (sr : Reg) (off9 : Int)
  /-- STR: FMT_RBO6 (R192, R193). -/
  | str (sr base : Reg) (off6 : Int)
  /-- TRAP: FMT_VEC8 (R162, R163). -/
  | trap (vec8 : BitVec 8)
  /-- The table's illegal row: the reserved opcode 1101, which is no instruction (R68, R107). Bits 11 to 0 are not
  examined, so it has no operand. -/
  | illegal
deriving DecidableEq, Repr

end Sys2Proof
end

