-- ==== Sys2Proof/Decode.lean ====
section
/-! DEFINITION. The word layer: DECODE_WORD's dispatch and field extraction (40_codec_operations.md R100) and, after it,
the encoder, the arms of ENCODE_FIELDS (R102). `w.extractLsb' lo n` is the spec's `w[lo+n-1 : lo]` (00_scope.md R8). -/

namespace Sys2Proof

/-- `sext_N(v)`: the signed reading of an N-bit field (R10). -/
def sext {n : Nat} (v : BitVec n) : Int := v.toInt

/-- `trunc_N(a) = a mod 2^N`, for any integer `a` (R11). -/
def trunc (n : Nat) (a : Int) : BitVec n := BitVec.ofInt n a

/-- `opcode = w[15:12]` (R61). -/
def opcodeOf (w : Word) : BitVec 4 := w.extractLsb' 12 4

/-- The BR instruction with these n, z, p bits (n is bit 2, p is bit 0; R27, R150). -/
def brOf (nzp : BitVec 3) (off9 : Int) : Instr :=
  match nzp.toNat with
  | 0 => .brNone off9
  | 1 => .brP off9
  | 2 => .brZ off9
  | 3 => .brZP off9
  | 4 => .brN off9
  | 5 => .brNP off9
  | 6 => .brNZ off9
  | _ => .brNZP off9

/-- DECODE_WORD (R100): total on the 65536 words. The reserved opcode 1101 gives the table's illegal row, on which every
user of the decoder reports UnknownOpcode (R68, R107). Bits that no field names are not read (R69). -/
def decodeWord (w : Word) : Instr :=
  let ra : Reg := w.extractLsb' 9 3
  let rb : Reg := w.extractLsb' 6 3
  let rc : Reg := w.extractLsb' 0 3
  let off9 : Int := sext (w.extractLsb' 0 9)
  let off6 : Int := sext (w.extractLsb' 0 6)
  let imm5 : Int := sext (w.extractLsb' 0 5)
  match (opcodeOf w).toNat with
  | 0b0000 => brOf (w.extractLsb' 9 3) off9
  | 0b0001 => if w.getLsbD 5 then .addI ra rb imm5 else .addR ra rb rc
  | 0b0010 => .ld ra off9
  | 0b0011 => .st ra off9
  | 0b0100 => if w.getLsbD 11 then .jsr (sext (w.extractLsb' 0 11)) else .jsrr rb
  | 0b0101 => if w.getLsbD 5 then .andI ra rb imm5 else .andR ra rb rc
  | 0b0110 => .ldr ra rb off6
  | 0b0111 => .str ra rb off6
  | 0b1000 => .rti
  | 0b1001 => .notR ra rb
  | 0b1010 => .ldi ra off9
  | 0b1011 => .sti ra off9
  | 0b1100 => if rb = 7#3 then .ret else .jmp rb
  | 0b1110 => .lea ra off9
  | 0b1111 => .trap (w.extractLsb' 0 8)
  | _ => .illegal

/-- The instruction the decoder reads from a word whose bits are `w`, as spec/opcode_table.json numbers them; bits at
`nbits` and above are 0. An instruction is one word of 16 bits and never more (R60), and crosses the boundary whole, in
no byte order (20_memory.md R42). -/
def decodeTableWord (nbits w : Nat) : Option Instr :=
  if nbits ≤ 16 then some (decodeWord (BitVec.ofNat 16 (w % 2 ^ nbits))) else none

/-! The encoder: one definition for each arm of ENCODE_FIELDS (R102). -/

/-- A field moved to its canonical position: bits `lo` and up of the word (R62, R102). -/
def place {n : Nat} (v : BitVec n) (lo : Nat) : Word := v.setWidth 16 <<< lo

/-- R132. -/
def encodeAddR (dr sr1 sr2 : Reg) : Word := 0x1000#16 ||| place dr 9 ||| place sr1 6 ||| place sr2 0

/-- R133. -/
def encodeAddI (dr sr1 : Reg) (imm5 : Int) : Word :=
  0x1000#16 ||| place dr 9 ||| place sr1 6 ||| place 1#1 5 ||| place (trunc 5 imm5) 0

/-- R136. -/
def encodeAndR (dr sr1 sr2 : Reg) : Word := 0x5000#16 ||| place dr 9 ||| place sr1 6 ||| place sr2 0

/-- R137. -/
def encodeAndI (dr sr1 : Reg) (imm5 : Int) : Word :=
  0x5000#16 ||| place dr 9 ||| place sr1 6 ||| place 1#1 5 ||| place (trunc 5 imm5) 0

/-- R151. -/
def encodeBr (nzp : BitVec 3) (off9 : Int) : Word := 0x0000#16 ||| place nzp 9 ||| place (trunc 9 off9) 0

/-- R153. A base of 7 gives 0xC1C0, the word of RET. -/
def encodeJmp (base : Reg) : Word := 0xC000#16 ||| place base 6

/-- R155: the fixed word 0xC1C0. -/
def encodeRet : Word := 0xC000#16 ||| place 7#3 6

/-- R157. -/
def encodeJsr (off11 : Int) : Word := 0x4000#16 ||| place 1#1 11 ||| place (trunc 11 off11) 0

/-- R159. -/
def encodeJsrr (base : Reg) : Word := 0x4000#16 ||| place base 6

/-- R181. -/
def encodeLd (dr : Reg) (off9 : Int) : Word := 0x2000#16 ||| place dr 9 ||| place (trunc 9 off9) 0

/-- R183. -/
def encodeLdi (dr : Reg) (off9 : Int) : Word := 0xA000#16 ||| place dr 9 ||| place (trunc 9 off9) 0

/-- R187. -/
def encodeLea (dr : Reg) (off9 : Int) : Word := 0xE000#16 ||| place dr 9 ||| place (trunc 9 off9) 0

/-- R185. -/
def encodeLdr (dr base : Reg) (off6 : Int) : Word :=
  0x6000#16 ||| place dr 9 ||| place base 6 ||| place (trunc 6 off6) 0

/-- R139, with the fill of bits 5 to 0 as an argument (NOT_FILL, R70). -/
def encodeNot (fill : BitVec 6) (dr sr : Reg) : Word := 0x9000#16 ||| place dr 9 ||| place sr 6 ||| place fill 0

/-- R161: the fixed word 0x8000. -/
def encodeRti : Word := 0x8000#16

/-- R189. -/
def encodeSt (sr : Reg) (off9 : Int) : Word := 0x3000#16 ||| place sr 9 ||| place (trunc 9 off9) 0

/-- R191. -/
def encodeSti (sr : Reg) (off9 : Int) : Word := 0xB000#16 ||| place sr 9 ||| place (trunc 9 off9) 0

/-- R193. -/
def encodeStr (sr base : Reg) (off6 : Int) : Word :=
  0x7000#16 ||| place sr 9 ||| place base 6 ||| place (trunc 6 off6) 0

/-- R163. -/
def encodeTrap (vec8 : BitVec 8) : Word := 0xF000#16 ||| place vec8 0

/-- ENCODE_FIELDS on a decoded instruction, for any NOT_FILL (R102). The illegal row has no encoding: no kind maps to
opcode 1101 (R68). -/
def encodeWith (notFill : BitVec 6) : Instr → Option Word
  | .addR dr sr1 sr2 => some (encodeAddR dr sr1 sr2)
  | .addI dr sr1 imm5 => some (encodeAddI dr sr1 imm5)
  | .andR dr sr1 sr2 => some (encodeAndR dr sr1 sr2)
  | .andI dr sr1 imm5 => some (encodeAndI dr sr1 imm5)
  | .brNone off9 => some (encodeBr 0b000#3 off9)
  | .brP off9 => some (encodeBr 0b001#3 off9)
  | .brZ off9 => some (encodeBr 0b010#3 off9)
  | .brZP off9 => some (encodeBr 0b011#3 off9)
  | .brN off9 => some (encodeBr 0b100#3 off9)
  | .brNP off9 => some (encodeBr 0b101#3 off9)
  | .brNZ off9 => some (encodeBr 0b110#3 off9)
  | .brNZP off9 => some (encodeBr 0b111#3 off9)
  | .jmp base => some (encodeJmp base)
  | .ret => some encodeRet
  | .jsr off11 => some (encodeJsr off11)
  | .jsrr base => some (encodeJsrr base)
  | .ld dr off9 => some (encodeLd dr off9)
  | .ldi dr off9 => some (encodeLdi dr off9)
  | .lea dr off9 => some (encodeLea dr off9)
  | .ldr dr base off6 => some (encodeLdr dr base off6)
  | .notR dr sr => some (encodeNot notFill dr sr)
  | .rti => some encodeRti
  | .st sr off9 => some (encodeSt sr off9)
  | .sti sr off9 => some (encodeSti sr off9)
  | .str sr base off6 => some (encodeStr sr base off6)
  | .trap vec8 => some (encodeTrap vec8)
  | .illegal => none

/-- The encoder of the spec: NOT_FILL at the value R7 takes. -/
def encode (i : Instr) : Option Word := encodeWith Config.notFill i

end Sys2Proof
end

