-- ==== Sys2Proof/Machine/State.lean ====
section
/-! DEFINITION. The machine's state: the signals at ICODEC's boundary, one field each (10_state.md R27 to R29). The block
holds nothing else (R20 to R26, R33): no register contents, program counter, flag, mode, memory or latch. -/

namespace Sys2Proof.Machine

/-- The four functions of the block, each with its own port group (10_state.md R29). -/
inductive PortGroup where
  /-- DECODE_WORD (R27, R100). -/
  | decWord
  /-- ENCODE_FIELDS (R28, R102). -/
  | encFields
  /-- DECODE_TEXT (R29, R210). -/
  | decText
  /-- ENCODE_TEXT (R29, R230). -/
  | encText
deriving DecidableEq, Repr

/-- The word-layer decoder's port group (R27). `word` is the input. -/
structure DecWordPorts where
  /-- `dec_word`, in. -/
  word : Word
  /-- `dec_ok`. -/
  ok : Bool
  /-- `dec_err`, a code of 60_exceptions.md R272. -/
  err : BitVec 2
  /-- `dec_kind`, a code of 30_encoding.md R66. -/
  kind : BitVec 5
  /-- `dec_opcode`, driven on failure too. -/
  opcode : BitVec 4
  /-- `dec_ra`, bits 11 to 9. -/
  ra : Reg
  /-- `dec_rb`, bits 8 to 6. -/
  rb : Reg
  /-- `dec_rc`, bits 2 to 0. -/
  rc : Reg
  /-- `dec_nzp`: n is bit 2, z is bit 1, p is bit 0. -/
  nzp : BitVec 3
  /-- `dec_imm`. -/
  imm : NativeWord
  /-- `dec_vec`. -/
  vec : BitVec 8
deriving DecidableEq, Repr

/-- The word-layer encoder's port group (R28). `word` and `ok` are the outputs. -/
structure EncFieldsPorts where
  /-- `enc_kind`, in. -/
  kind : BitVec 5
  /-- `enc_ra`, in. -/
  ra : Reg
  /-- `enc_rb`, in. -/
  rb : Reg
  /-- `enc_rc`, in. -/
  rc : Reg
  /-- `enc_nzp`, in. -/
  nzp : BitVec 3
  /-- `enc_imm`, in. -/
  imm : NativeWord
  /-- `enc_vec`, in. -/
  vec : BitVec 8
  /-- `enc_word`. -/
  word : Word
  /-- `enc_ok`. -/
  ok : Bool
deriving DecidableEq, Repr

/-- The text-layer decoder's port group (R29). `textIn` is the input. -/
structure DecTextPorts where
  /-- `dec_text_in`, in. -/
  textIn : Text
  /-- `dec_t_ok`. -/
  ok : Bool
  /-- `dec_t_err`, a code of R272. -/
  err : BitVec 2
  /-- `dec_text_out`. -/
  textOut : Text
deriving DecidableEq, Repr

/-- The text-layer encoder's port group (R29). `textIn` is the input. -/
structure EncTextPorts where
  /-- `enc_text_in`, in. -/
  textIn : Text
  /-- `enc_t_ok`. -/
  ok : Bool
  /-- `enc_t_err`, a code of R272. -/
  err : BitVec 3
  /-- `enc_t_word`. -/
  word : Word
  /-- `enc_bits_out`. -/
  bitsOut : Text
deriving DecidableEq, Repr

/-- Every signal of the four port groups. `port` is the model's own bookkeeping, no signal of the block: which group the
evaluation in progress is on (DESIGN CHOICE, log entry 1; safe: no output of a step depends on it). -/
structure State where
  decWord : DecWordPorts
  encFields : EncFieldsPorts
  decText : DecTextPorts
  encText : EncTextPorts
  port : PortGroup
deriving DecidableEq, Repr

/-- Faults: there is none. No input stops the block; each of its eight failures is an output of the evaluation that
failed (60_exceptions.md R273, R276), so it is a next state here. No meaning raises a fault. -/
inductive Fault
deriving DecidableEq, Repr

/-- Refusals. -/
inductive Refusal where
  /-- Answered by an arm of `exec` whose instruction has no meaning yet; no arm does. Safe: the machine stops. -/
  | notModelled (mnemonic : String)
deriving DecidableEq, Repr

/-- Right after reset (10_state.md R32, 70_reset_and_hazards.md R300): nothing is set, so every output is the function
of its group's present inputs. The inputs are whatever the user drives; here they are zero and the empty string (DESIGN
CHOICE, log entry 2; unsafe). Outputs: 0x0000 decodes as BR with n, z, p = 000 (R150); kind code 0 gives `enc_ok` = 0
(R108); the empty string is MalformedWidth (R212) and EmptyInput (R234). -/
def State.reset : State where
  decWord :=
    { word := 0#16, ok := true, err := 0#2, kind := 5#5, opcode := 0#4, ra := 0#3, rb := 0#3, rc := 0#3, nzp := 0#3,
      imm := 0#16, vec := 0#8 }
  encFields :=
    { kind := 0#5, ra := 0#3, rb := 0#3, rc := 0#3, nzp := 0#3, imm := 0#16, vec := 0#8, word := 0#16, ok := false }
  decText := { textIn := [], ok := false, err := 1#2, textOut := [] }
  encText := { textIn := [], ok := false, err := 1#3, word := 0#16, bitsOut := [] }
  port := .decWord

end Sys2Proof.Machine
end

