-- ==== Sys2Proof/Machine/Record.lean ====
section
/-! DEFINITION. The kinds (30_encoding.md R66), the decoded record (40_codec_operations.md R101), the failures
(60_exceptions.md R270, R271) and their codes (R272). -/

namespace Sys2Proof.Machine

/-- The 19 instruction kinds and NONE (R66). -/
inductive Kind where
  | none | addR | addI | andR | andI | br | jmp | ret | jsr | jsrr
  | ld | ldi | ldr | lea | not | rti | st | sti | str | trap
deriving DecidableEq, Repr

/-- The kind code on `dec_kind` and `enc_kind` (R66). -/
def Kind.code : Kind → BitVec 5
  | .none => 0#5
  | .addR => 1#5
  | .addI => 2#5
  | .andR => 3#5
  | .andI => 4#5
  | .br => 5#5
  | .jmp => 6#5
  | .ret => 7#5
  | .jsr => 8#5
  | .jsrr => 9#5
  | .ld => 10#5
  | .ldi => 11#5
  | .ldr => 12#5
  | .lea => 13#5
  | .not => 14#5
  | .rti => 15#5
  | .st => 16#5
  | .sti => 17#5
  | .str => 18#5
  | .trap => 19#5

/-- The decoded record (R101). A field the kind lacks is 0 (10_state.md R31). `imm` is the integer. -/
structure Record where
  kind : Kind
  opcode : BitVec 4
  ra : Reg := 0#3
  rb : Reg := 0#3
  rc : Reg := 0#3
  nzp : BitVec 3 := 0#3
  imm : Int := 0
  vec : BitVec 8 := 0#8
deriving DecidableEq, Repr

/-- What the block makes of one instruction: its decoded record and canonical text (its decode rule), and its word (its
encode rule). -/
structure Translation where
  record : Record
  text : Text
  word : Word
deriving DecidableEq, Repr

/-- The decoder's failures (R270). -/
inductive DecFailure where
  | malformedWidth | malformedDigits | unknownOpcode
deriving DecidableEq, Repr

/-- Their codes on `dec_err` and `dec_t_err` (R272); 0 is no failure. -/
def DecFailure.code : DecFailure → BitVec 2
  | .malformedWidth => 1#2
  | .malformedDigits => 2#2
  | .unknownOpcode => 3#2

/-- The encoder's failures (R271). -/
inductive EncFailure where
  | emptyInput | unknownMnemonic | missingOperand | invalidRegister | invalidImmediate
deriving DecidableEq, Repr

/-- Their codes on `enc_t_err` (R272); 0 is no failure. -/
def EncFailure.code : EncFailure → BitVec 3
  | .emptyInput => 1#3
  | .unknownMnemonic => 2#3
  | .missingOperand => 3#3
  | .invalidRegister => 4#3
  | .invalidImmediate => 5#3

end Sys2Proof.Machine
end

