-- ==== Sys2Proof/Machine/Operands.lean ====
section
/-! DEFINITION. Every operand form: how a register, an immediate and a vector are printed (44_text_decode.md R215 to
R218), how binary text is printed (45_text_encode.md R245), and how register and immediate tokens are read (R239 to
R243). The word layer's operands are fields of the word; Decode.lean extracts them. -/

namespace Sys2Proof.Machine

/-! Printing. -/

/-- The code of a decimal digit 0 to 9. -/
def digitCode (d : Nat) : Byte := BitVec.ofNat 8 (0x30 + d)

/-- The code of a hexadecimal digit 0 to 15: `0` to `9`, upper-case `A` to `F` (R218). -/
def hexCode (d : Nat) : Byte := BitVec.ofNat 8 (if d < 10 then 0x30 + d else 0x37 + d)

/-- The decimal digits of `n`, no leading zeros. The numeral of `n` never has more than `n + 1` digits, which is the
fuel `natText` gives. -/
def natDigits : Nat → Nat → Text
  | 0, _ => []
  | fuel + 1, n => if n < 10 then [digitCode n] else natDigits fuel (n / 10) ++ [digitCode (n % 10)]

/-- The decimal numeral of a natural number (R217). -/
def natText (n : Nat) : Text := natDigits (n + 1) n

/-- `R(k)`: the letter `R` and one digit (R216). -/
def regText (k : Reg) : Text := chars ['R'] ++ [digitCode k.toNat]

/-- `I(v)`: `#`, then the decimal numeral, with `-` before it when `v < 0` (R217). -/
def immText (v : Int) : Text :=
  if v < 0 then chars ['#', '-'] ++ natText v.natAbs else chars ['#'] ++ natText v.natAbs

/-- `HEX2(v)`: two upper-case hexadecimal digits (R218). -/
def hex2 (v : BitVec 8) : Text := [hexCode (v.toNat / 16), hexCode (v.toNat % 16)]

/-- The TRAP vector: `x` and two digits (R162, R218). -/
def vecText (v : BitVec 8) : Text := chars ['x'] ++ hex2 v

/-- Operands joined by a comma and one space (R215). -/
def joinOperands : List Text → Text
  | [] => []
  | [t] => t
  | t :: ts => t ++ chars [',', ' '] ++ joinOperands ts

/-- Canonical text: the mnemonic, then, if there are operands, one space and the operands (R215). -/
def asmText (mnemonic : Text) (operands : List Text) : Text :=
  match operands with
  | [] => mnemonic
  | ops => mnemonic ++ chars [' '] ++ joinOperands ops

/-- `BIN16(w)`: sixteen characters, bit 15 first (R245, 20_memory.md R41). -/
def bin16 (w : Word) : Text :=
  (List.range 16).map fun k => if w.getLsbD (15 - k) then 0x31#8 else 0x30#8

/-! Reading numbers. -/

/-- A decimal digit `0` to `9`. -/
def isDigit (b : Byte) : Bool := decide (0x30 ≤ b.toNat) && decide (b.toNat ≤ 0x39)

/-- A hexadecimal digit, after upper-casing: `0` to `9`, `A` to `F` (R242). -/
def isHexDigit (b : Byte) : Bool := isDigit b || (decide (0x41 ≤ b.toNat) && decide (b.toNat ≤ 0x46))

/-- The value of a digit that `isHexDigit` accepts. -/
def digitValue (b : Byte) : Nat := if isDigit b then b.toNat - 0x30 else b.toNat - 0x37

/-- The number a digit string writes, most significant digit first. -/
def digitsValue (base : Nat) (s : Text) : Nat := s.foldl (fun acc b => acc * base + digitValue b) 0

/-- One or more decimal digits and nothing else. -/
def natLit (s : Text) : Option Nat :=
  if !s.isEmpty && s.all isDigit then some (digitsValue 10 s) else none

/-- `hex(s)`: one or more hexadecimal digits and nothing else (R242). -/
def hexLit (s : Text) : Option Nat :=
  if !s.isEmpty && s.all isHexDigit then some (digitsValue 16 s) else none

/-- `dec(s)`: an optional single `-`, then one or more decimal digits, of any magnitude (R241). -/
def decLit (s : Text) : Option Int :=
  match s with
  | [] => none
  | b :: rest =>
    if b = 0x2D#8 then (natLit rest).map fun n => -(n : Int)
    else (natLit s).map fun n => (n : Int)

/-! Operand tokens. -/

/-- `reg(t)`: `R` and one or more decimal digits of value at most 7 (R239, REG_RANGE_CHECK). -/
def regTok (t : Text) : Except EncFailure Reg :=
  match t with
  | [] => .error .invalidRegister
  | b :: digits =>
    if b = 0x52#8 then
      match natLit digits with
      | none => .error .invalidRegister
      | some k => if k ≤ Config.regMax then .ok (BitVec.ofNat 3 k) else .error .invalidRegister
    else .error .invalidRegister

/-- The integer an immediate token writes: `#` and decimal, `X` and hexadecimal, or bare decimal (R240). -/
def immValue (t : Text) : Option Int :=
  match t with
  | [] => none
  | b :: rest =>
    if b = 0x23#8 then decLit rest
    else if b = 0x58#8 then (hexLit rest).map fun n => (n : Int)
    else decLit t

/-- `imm_N(t)`: the token's integer cut to its field, no range checked (R240, R243). -/
def immTok (n : Nat) (t : Text) : Except EncFailure (BitVec n) :=
  match immValue t with
  | none => .error .invalidImmediate
  | some a => .ok (trunc n a)

end Sys2Proof.Machine
end

