-- ==== Sys2Proof/Machine/Flags.lean ====
section
/-! DEFINITION. The block has no flags, and no instruction writes one (10_state.md R23). What stands here is the one
place the letters n, z, p occur: BR's condition suffix, printed (44_text_decode.md R219) and read (42_control.md R151,
45_text_encode.md R236). -/

namespace Sys2Proof.Machine

/-- The printed suffix: the letters of the set bits in the order n, z, p; all three when no bit is set (R150, R219). -/
def brSuffix (nzp : BitVec 3) : Text :=
  let letters :=
    (if nzp.getLsbD 2 then chars ['n'] else []) ++ (if nzp.getLsbD 1 then chars ['z'] else []) ++
      (if nzp.getLsbD 0 then chars ['p'] else [])
  if letters.isEmpty then chars ['n', 'z', 'p'] else letters

/-- The printed mnemonic of a BR (R219). -/
def brMnemonic (nzp : BitVec 3) : Text := chars ['B', 'R'] ++ brSuffix nzp

/-- The accepted suffixes, upper-cased, with their bits; the empty one is the bare mnemonic (R151, R236). -/
def brSuffixes : List (Text × BitVec 3) :=
  [(chars ['N'], 0b100#3), (chars ['Z'], 0b010#3), (chars ['P'], 0b001#3), (chars ['N', 'Z'], 0b110#3),
   (chars ['N', 'P'], 0b101#3), (chars ['Z', 'P'], 0b011#3), (chars ['N', 'Z', 'P'], 0b111#3), ([], Config.brBareNzp)]

/-- n, z, p of a suffix; none for any other suffix (R236). -/
def brSuffixBits (suffix : Text) : Option (BitVec 3) :=
  (brSuffixes.find? fun p => p.1 == suffix).map Prod.snd

end Sys2Proof.Machine
end

