-- ==== Sys2Proof/Machine/Ops.lean ====
section
/-! DEFINITION. The named operations on the port groups: driving a result, signalling a failure, and running one
instruction's translation on the group being evaluated. The block has no registers and no memory, so these are all. -/

namespace Sys2Proof.Machine

/-- What a meaning and a step answer. -/
abbrev Result := Host.Outcome State Fault Refusal

/-! Driving a result. Each changes the outputs of one group and nothing else (10_state.md R29, R30). -/

/-- DECODE_WORD succeeds: the record on the ports; `imm` as its 16-bit pattern (R27, R101). -/
def driveRecord (r : Record) (s : State) : State :=
  { s with
    decWord :=
      { s.decWord with
        ok := true, err := 0#2, kind := r.kind.code, opcode := r.opcode, ra := r.ra, rb := r.rb, rc := r.rc,
        nzp := r.nzp, imm := trunc 16 r.imm, vec := r.vec } }

/-- ENCODE_FIELDS succeeds (R28, R108). -/
def driveWord (w : Word) (s : State) : State :=
  { s with encFields := { s.encFields with word := w, ok := true } }

/-- DECODE_TEXT succeeds (44_text_decode.md R214). -/
def driveText (t : Text) (s : State) : State :=
  { s with decText := { s.decText with ok := true, err := 0#2, textOut := t } }

/-- ENCODE_TEXT succeeds (45_text_encode.md R245). -/
def driveBits (w : Word) (s : State) : State :=
  { s with encText := { s.encText with ok := true, err := 0#3, word := w, bitsOut := bin16 w } }

/-! Signalling a failure (60_exceptions.md R273): ok is 0, the code says which, every data output of the group is 0 or
empty. It saves nothing, changes no mode and goes nowhere (R276), and there is no return from it (R277). -/

/-- DECODE_WORD fails; `dec_opcode` is driven all the same (10_state.md R27, R31; R107). -/
def failDecWord (f : DecFailure) (opcode : BitVec 4) (s : State) : State :=
  { s with
    decWord :=
      { s.decWord with
        ok := false, err := f.code, kind := Kind.none.code, opcode := opcode, ra := 0#3, rb := 0#3, rc := 0#3,
        nzp := 0#3, imm := 0#16, vec := 0#8 } }

/-- ENCODE_FIELDS has no kind to encode (R108). -/
def failEncFields (s : State) : State :=
  { s with encFields := { s.encFields with word := 0#16, ok := false } }

/-- DECODE_TEXT fails (R214). -/
def failDecText (f : DecFailure) (s : State) : State :=
  { s with decText := { s.decText with ok := false, err := f.code, textOut := [] } }

/-- ENCODE_TEXT fails (R245). -/
def failEncText (f : EncFailure) (s : State) : State :=
  { s with encText := { s.encText with ok := false, err := f.code, word := 0#16, bitsOut := [] } }

/-! Running an instruction. -/

/-- An instruction's translation delivered on the group being evaluated: its record, its word, its canonical text, or
its word and the word's sixteen characters (R100, R102, R210, R230). -/
def deliver (t : Translation) (s : State) : Result :=
  match s.port with
  | .decWord => .next (driveRecord t.record s)
  | .encFields => .next (driveWord t.word s)
  | .decText => .next (driveText t.text s)
  | .encText => .next (driveBits t.word s)

/-- The reserved opcode on the group being evaluated: UnknownOpcode on both decoder groups (R107, R214); on the encoder
groups, which no input takes there, kind code 0 has no word (R108) and no mnemonic names it (R68; log entry 10). -/
def rejectReserved (opcode : BitVec 4) (s : State) : Result :=
  match s.port with
  | .decWord => .next (failDecWord .unknownOpcode opcode s)
  | .encFields => .next (failEncFields s)
  | .decText => .next (failDecText .unknownOpcode s)
  | .encText => .next (failEncText .unknownMnemonic s)

/-- Go on with `f` from the next state; a fault or a refusal stands. -/
def andThen (r : Result) (f : State → Result) : Result :=
  match r with
  | .next s => f s
  | .fault e => .fault e
  | .refused e => .refused e

end Sys2Proof.Machine
end

