-- ==== Sys2Proof/Machine/Control.lean ====
section
/-! DEFINITION. The control instructions BR, JMP, RET, JSR, JSRR, RTI, TRAP (42_control.md R150 to R163) and the illegal row
(R107). The block transfers control nowhere: no target, no link register, no trap. -/

namespace Sys2Proof.Machine

/-- BR with n, z, p = 000 (decode R150, encode R151). -/
def translateBrNone (off9 : Int) : Translation where
  record := { kind := .br, opcode := 0b0000#4, nzp := 0b000#3, imm := off9 }
  text := asmText (brMnemonic 0b000#3) [immText off9]
  word := encodeBr 0b000#3 off9

/-- BR with n, z, p = 000: what the block does with it, on the group being evaluated. -/
def execBrNone (off9 : Int) (s : State) : Result := deliver (translateBrNone off9) s

/-- BR with n, z, p = 001 (decode R150, encode R151). -/
def translateBrP (off9 : Int) : Translation where
  record := { kind := .br, opcode := 0b0000#4, nzp := 0b001#3, imm := off9 }
  text := asmText (brMnemonic 0b001#3) [immText off9]
  word := encodeBr 0b001#3 off9

/-- BR with n, z, p = 001: what the block does with it, on the group being evaluated. -/
def execBrP (off9 : Int) (s : State) : Result := deliver (translateBrP off9) s

/-- BR with n, z, p = 010 (decode R150, encode R151). -/
def translateBrZ (off9 : Int) : Translation where
  record := { kind := .br, opcode := 0b0000#4, nzp := 0b010#3, imm := off9 }
  text := asmText (brMnemonic 0b010#3) [immText off9]
  word := encodeBr 0b010#3 off9

/-- BR with n, z, p = 010: what the block does with it, on the group being evaluated. -/
def execBrZ (off9 : Int) (s : State) : Result := deliver (translateBrZ off9) s

/-- BR with n, z, p = 011 (decode R150, encode R151). -/
def translateBrZP (off9 : Int) : Translation where
  record := { kind := .br, opcode := 0b0000#4, nzp := 0b011#3, imm := off9 }
  text := asmText (brMnemonic 0b011#3) [immText off9]
  word := encodeBr 0b011#3 off9

/-- BR with n, z, p = 011: what the block does with it, on the group being evaluated. -/
def execBrZP (off9 : Int) (s : State) : Result := deliver (translateBrZP off9) s

/-- BR with n, z, p = 100 (decode R150, encode R151). -/
def translateBrN (off9 : Int) : Translation where
  record := { kind := .br, opcode := 0b0000#4, nzp := 0b100#3, imm := off9 }
  text := asmText (brMnemonic 0b100#3) [immText off9]
  word := encodeBr 0b100#3 off9

/-- BR with n, z, p = 100: what the block does with it, on the group being evaluated. -/
def execBrN (off9 : Int) (s : State) : Result := deliver (translateBrN off9) s

/-- BR with n, z, p = 101 (decode R150, encode R151). -/
def translateBrNP (off9 : Int) : Translation where
  record := { kind := .br, opcode := 0b0000#4, nzp := 0b101#3, imm := off9 }
  text := asmText (brMnemonic 0b101#3) [immText off9]
  word := encodeBr 0b101#3 off9

/-- BR with n, z, p = 101: what the block does with it, on the group being evaluated. -/
def execBrNP (off9 : Int) (s : State) : Result := deliver (translateBrNP off9) s

/-- BR with n, z, p = 110 (decode R150, encode R151). -/
def translateBrNZ (off9 : Int) : Translation where
  record := { kind := .br, opcode := 0b0000#4, nzp := 0b110#3, imm := off9 }
  text := asmText (brMnemonic 0b110#3) [immText off9]
  word := encodeBr 0b110#3 off9

/-- BR with n, z, p = 110: what the block does with it, on the group being evaluated. -/
def execBrNZ (off9 : Int) (s : State) : Result := deliver (translateBrNZ off9) s

/-- BR with n, z, p = 111 (decode R150, encode R151). -/
def translateBrNZP (off9 : Int) : Translation where
  record := { kind := .br, opcode := 0b0000#4, nzp := 0b111#3, imm := off9 }
  text := asmText (brMnemonic 0b111#3) [immText off9]
  word := encodeBr 0b111#3 off9

/-- BR with n, z, p = 111: what the block does with it, on the group being evaluated. -/
def execBrNZP (off9 : Int) (s : State) : Result := deliver (translateBrNZP off9) s

/-- JMP (decode R152, encode R153). -/
def translateJmp (base : Reg) : Translation where
  record := { kind := .jmp, opcode := 0b1100#4, rb := base }
  text := asmText (chars ['J', 'M', 'P']) [regText base]
  word := encodeJmp base

/-- JMP: what the block does with it, on the group being evaluated. -/
def execJmp (base : Reg) (s : State) : Result := deliver (translateJmp base) s

/-- RET; its record reports the base field's 7 (decode R154, encode R155). -/
def translateRet : Translation where
  record := { kind := .ret, opcode := 0b1100#4, rb := 7#3 }
  text := asmText (chars ['R', 'E', 'T']) []
  word := encodeRet

/-- RET; its record reports the base field's 7: what the block does with it, on the group being evaluated. -/
def execRet (s : State) : Result := deliver translateRet s

/-- JSR (decode R156, encode R157). -/
def translateJsr (off11 : Int) : Translation where
  record := { kind := .jsr, opcode := 0b0100#4, imm := off11 }
  text := asmText (chars ['J', 'S', 'R']) [immText off11]
  word := encodeJsr off11

/-- JSR: what the block does with it, on the group being evaluated. -/
def execJsr (off11 : Int) (s : State) : Result := deliver (translateJsr off11) s

/-- JSRR (decode R158, encode R159). -/
def translateJsrr (base : Reg) : Translation where
  record := { kind := .jsrr, opcode := 0b0100#4, rb := base }
  text := asmText (chars ['J', 'S', 'R', 'R']) [regText base]
  word := encodeJsrr base

/-- JSRR: what the block does with it, on the group being evaluated. -/
def execJsrr (base : Reg) (s : State) : Result := deliver (translateJsrr base) s

/-- RTI; no privilege is checked, there are no modes (R283) (decode R160, encode R161). -/
def translateRti : Translation where
  record := { kind := .rti, opcode := 0b1000#4 }
  text := asmText (chars ['R', 'T', 'I']) []
  word := encodeRti

/-- RTI; no privilege is checked, there are no modes (R283): what the block does with it, on the group being evaluated. -/
def execRti (s : State) : Result := deliver translateRti s

/-- TRAP; the vector is unsigned and on `vec` only (decode R162, encode R163). -/
def translateTrap (vec8 : BitVec 8) : Translation where
  record := { kind := .trap, opcode := 0b1111#4, vec := vec8 }
  text := asmText (chars ['T', 'R', 'A', 'P']) [vecText vec8]
  word := encodeTrap vec8

/-- TRAP; the vector is unsigned and on `vec` only: what the block does with it, on the group being evaluated. -/
def execTrap (vec8 : BitVec 8) (s : State) : Result := deliver (translateTrap vec8) s

/-- The reserved opcode 1101: UnknownOpcode, no record, no text, no word (R68, R107). -/
def execIllegal (s : State) : Result := rejectReserved 0b1101#4 s

end Sys2Proof.Machine
end

