-- ==== Sys2Proof/Machine/DataMovement.lean ====
section
/-! DEFINITION. The data movement instructions LD, LDI, LDR, LEA, ST, STI, STR (43_data_movement.md R180 to R193). The block
loads and stores nothing and forms no address. -/

namespace Sys2Proof.Machine

/-- LD (decode R180, encode R181). -/
def translateLd (dr : Reg) (off9 : Int) : Translation where
  record := { kind := .ld, opcode := 0b0010#4, ra := dr, imm := off9 }
  text := asmText (chars ['L', 'D']) [regText dr, immText off9]
  word := encodeLd dr off9

/-- LD: what the block does with it, on the group being evaluated. -/
def execLd (dr : Reg) (off9 : Int) (s : State) : Result := deliver (translateLd dr off9) s

/-- LDI (decode R182, encode R183). -/
def translateLdi (dr : Reg) (off9 : Int) : Translation where
  record := { kind := .ldi, opcode := 0b1010#4, ra := dr, imm := off9 }
  text := asmText (chars ['L', 'D', 'I']) [regText dr, immText off9]
  word := encodeLdi dr off9

/-- LDI: what the block does with it, on the group being evaluated. -/
def execLdi (dr : Reg) (off9 : Int) (s : State) : Result := deliver (translateLdi dr off9) s

/-- LEA (decode R186, encode R187). -/
def translateLea (dr : Reg) (off9 : Int) : Translation where
  record := { kind := .lea, opcode := 0b1110#4, ra := dr, imm := off9 }
  text := asmText (chars ['L', 'E', 'A']) [regText dr, immText off9]
  word := encodeLea dr off9

/-- LEA: what the block does with it, on the group being evaluated. -/
def execLea (dr : Reg) (off9 : Int) (s : State) : Result := deliver (translateLea dr off9) s

/-- LDR (decode R184, encode R185). -/
def translateLdr (dr base : Reg) (off6 : Int) : Translation where
  record := { kind := .ldr, opcode := 0b0110#4, ra := dr, rb := base, imm := off6 }
  text := asmText (chars ['L', 'D', 'R']) [regText dr, regText base, immText off6]
  word := encodeLdr dr base off6

/-- LDR: what the block does with it, on the group being evaluated. -/
def execLdr (dr base : Reg) (off6 : Int) (s : State) : Result := deliver (translateLdr dr base off6) s

/-- ST; the source register is on `ra` (decode R188, encode R189). -/
def translateSt (sr : Reg) (off9 : Int) : Translation where
  record := { kind := .st, opcode := 0b0011#4, ra := sr, imm := off9 }
  text := asmText (chars ['S', 'T']) [regText sr, immText off9]
  word := encodeSt sr off9

/-- ST; the source register is on `ra`: what the block does with it, on the group being evaluated. -/
def execSt (sr : Reg) (off9 : Int) (s : State) : Result := deliver (translateSt sr off9) s

/-- STI; the source register is on `ra` (decode R190, encode R191). -/
def translateSti (sr : Reg) (off9 : Int) : Translation where
  record := { kind := .sti, opcode := 0b1011#4, ra := sr, imm := off9 }
  text := asmText (chars ['S', 'T', 'I']) [regText sr, immText off9]
  word := encodeSti sr off9

/-- STI; the source register is on `ra`: what the block does with it, on the group being evaluated. -/
def execSti (sr : Reg) (off9 : Int) (s : State) : Result := deliver (translateSti sr off9) s

/-- STR; the source register is on `ra` (decode R192, encode R193). -/
def translateStr (sr base : Reg) (off6 : Int) : Translation where
  record := { kind := .str, opcode := 0b0111#4, ra := sr, rb := base, imm := off6 }
  text := asmText (chars ['S', 'T', 'R']) [regText sr, regText base, immText off6]
  word := encodeStr sr base off6

/-- STR; the source register is on `ra`: what the block does with it, on the group being evaluated. -/
def execStr (sr base : Reg) (off6 : Int) (s : State) : Result := deliver (translateStr sr base off6) s

end Sys2Proof.Machine
end

