-- ==== Sys2Proof/Machine/Operate.lean ====
section
/-! DEFINITION. The operate instructions ADD, AND, NOT (41_operate.md R130 to R139). The block carries out none of them: an
instruction's effect is its record, its text and its word. -/

namespace Sys2Proof.Machine

/-- ADD, register form (decode R130, encode R132). -/
def translateAddR (dr sr1 sr2 : Reg) : Translation where
  record := { kind := .addR, opcode := 0b0001#4, ra := dr, rb := sr1, rc := sr2 }
  text := asmText (chars ['A', 'D', 'D']) [regText dr, regText sr1, regText sr2]
  word := encodeAddR dr sr1 sr2

/-- ADD, register form: what the block does with it, on the group being evaluated. -/
def execAddR (dr sr1 sr2 : Reg) (s : State) : Result := deliver (translateAddR dr sr1 sr2) s

/-- ADD, immediate form (decode R131, encode R133). -/
def translateAddI (dr sr1 : Reg) (imm5 : Int) : Translation where
  record := { kind := .addI, opcode := 0b0001#4, ra := dr, rb := sr1, imm := imm5 }
  text := asmText (chars ['A', 'D', 'D']) [regText dr, regText sr1, immText imm5]
  word := encodeAddI dr sr1 imm5

/-- ADD, immediate form: what the block does with it, on the group being evaluated. -/
def execAddI (dr sr1 : Reg) (imm5 : Int) (s : State) : Result := deliver (translateAddI dr sr1 imm5) s

/-- AND, register form (decode R134, encode R136). -/
def translateAndR (dr sr1 sr2 : Reg) : Translation where
  record := { kind := .andR, opcode := 0b0101#4, ra := dr, rb := sr1, rc := sr2 }
  text := asmText (chars ['A', 'N', 'D']) [regText dr, regText sr1, regText sr2]
  word := encodeAndR dr sr1 sr2

/-- AND, register form: what the block does with it, on the group being evaluated. -/
def execAndR (dr sr1 sr2 : Reg) (s : State) : Result := deliver (translateAndR dr sr1 sr2) s

/-- AND, immediate form (decode R135, encode R137). -/
def translateAndI (dr sr1 : Reg) (imm5 : Int) : Translation where
  record := { kind := .andI, opcode := 0b0101#4, ra := dr, rb := sr1, imm := imm5 }
  text := asmText (chars ['A', 'N', 'D']) [regText dr, regText sr1, immText imm5]
  word := encodeAndI dr sr1 imm5

/-- AND, immediate form: what the block does with it, on the group being evaluated. -/
def execAndI (dr sr1 : Reg) (imm5 : Int) (s : State) : Result := deliver (translateAndI dr sr1 imm5) s

/-- NOT (decode R138, encode R139). -/
def translateNot (dr sr : Reg) : Translation where
  record := { kind := .not, opcode := 0b1001#4, ra := dr, rb := sr }
  text := asmText (chars ['N', 'O', 'T']) [regText dr, regText sr]
  word := encodeNot Config.notFill dr sr

/-- NOT: what the block does with it, on the group being evaluated. -/
def execNot (dr sr : Reg) (s : State) : Result := deliver (translateNot dr sr) s

end Sys2Proof.Machine
end

