-- ==== Sys2Proof/Machine/Dispatch.lean ====
section
/-! DEFINITION. One arm per instruction: its meaning, by name. -/

namespace Sys2Proof.Machine

def exec (i : Instr) (s : State) : Host.Outcome State Fault Refusal :=
  match i with
  | .addR dr sr1 sr2 => Sys2Proof.Machine.execAddR dr sr1 sr2 s
  | .addI dr sr1 imm5 => Sys2Proof.Machine.execAddI dr sr1 imm5 s
  | .andR dr sr1 sr2 => Sys2Proof.Machine.execAndR dr sr1 sr2 s
  | .andI dr sr1 imm5 => Sys2Proof.Machine.execAndI dr sr1 imm5 s
  | .brNone off9 => Sys2Proof.Machine.execBrNone off9 s
  | .brP off9 => Sys2Proof.Machine.execBrP off9 s
  | .brZ off9 => Sys2Proof.Machine.execBrZ off9 s
  | .brZP off9 => Sys2Proof.Machine.execBrZP off9 s
  | .brN off9 => Sys2Proof.Machine.execBrN off9 s
  | .brNP off9 => Sys2Proof.Machine.execBrNP off9 s
  | .brNZ off9 => Sys2Proof.Machine.execBrNZ off9 s
  | .brNZP off9 => Sys2Proof.Machine.execBrNZP off9 s
  | .jmp base => Sys2Proof.Machine.execJmp base s
  | .ret => Sys2Proof.Machine.execRet s
  | .jsr off11 => Sys2Proof.Machine.execJsr off11 s
  | .jsrr base => Sys2Proof.Machine.execJsrr base s
  | .ld dr off9 => Sys2Proof.Machine.execLd dr off9 s
  | .ldi dr off9 => Sys2Proof.Machine.execLdi dr off9 s
  | .lea dr off9 => Sys2Proof.Machine.execLea dr off9 s
  | .ldr dr base off6 => Sys2Proof.Machine.execLdr dr base off6 s
  | .notR dr sr => Sys2Proof.Machine.execNot dr sr s
  | .rti => Sys2Proof.Machine.execRti s
  | .st sr off9 => Sys2Proof.Machine.execSt sr off9 s
  | .sti sr off9 => Sys2Proof.Machine.execSti sr off9 s
  | .str sr base off6 => Sys2Proof.Machine.execStr sr base off6 s
  | .trap vec8 => Sys2Proof.Machine.execTrap vec8 s
  | .illegal => Sys2Proof.Machine.execIllegal s

end Sys2Proof.Machine
end

