-- ==== Sys2Proof/Machine/Fields.lean ====
section
/-! DEFINITION. What ENCODE_FIELDS reads from its ports: the kind code selects the instruction, the kind's fields are
taken from the ports, inputs the kind does not use are ignored (10_state.md R28, 40_codec_operations.md R102, R108). -/

namespace Sys2Proof.Machine

/-- The instruction on ENCODE_FIELDS's inputs; none for a kind code outside 1 to 19 (R108). `enc_imm` is read as a
signed number; the encoder cuts it to the field (R65, D26), so only its low N bits matter. -/
def instrOfFields (kind : BitVec 5) (ra rb rc : Reg) (nzp : BitVec 3) (imm : NativeWord) (vec : BitVec 8) :
    Option Instr :=
  match kind.toNat with
  | 1 => some (.addR ra rb rc)
  | 2 => some (.addI ra rb (sext imm))
  | 3 => some (.andR ra rb rc)
  | 4 => some (.andI ra rb (sext imm))
  | 5 => some (brOf nzp (sext imm))
  | 6 => some (.jmp rb)
  | 7 => some .ret
  | 8 => some (.jsr (sext imm))
  | 9 => some (.jsrr rb)
  | 10 => some (.ld ra (sext imm))
  | 11 => some (.ldi ra (sext imm))
  | 12 => some (.ldr ra rb (sext imm))
  | 13 => some (.lea ra (sext imm))
  | 14 => some (.notR ra rb)
  | 15 => some .rti
  | 16 => some (.st ra (sext imm))
  | 17 => some (.sti ra (sext imm))
  | 18 => some (.str ra rb (sext imm))
  | 19 => some (.trap vec)
  | _ => none

end Sys2Proof.Machine
end

