-- ==== Sys2Proof/Machine/TextDecode.lean ====
section
/-! DEFINITION. What DECODE_TEXT does before DECODE_WORD: normalisation, the width test, the digit test and the value
(44_text_decode.md R210 to R213). Total on every string, rejecting by name. -/

namespace Sys2Proof.Machine

/-- A character of WS (R211). -/
def isWs (b : Byte) : Bool := Config.ws.contains b

/-- The prefix `0b`, exactly at the front, once (R211). -/
def stripPrefix (raw : Text) : Text :=
  if raw.take 2 = chars ['0', 'b'] then raw.drop 2 else raw

/-- First the prefix, then every whitespace character, wherever it stands (R211, D21). -/
def normalise (raw : Text) : Text := (stripPrefix raw).filter fun b => !isWs b

/-- A binary digit `0` or `1` (R213). -/
def isBinDigit (b : Byte) : Bool := decide (b = 0x30#8) || decide (b = 0x31#8)

/-- The radix-2 value of a string of binary digits, the first one highest (R213, 20_memory.md R41). -/
def binValue (s : Text) : Nat := s.foldl (fun acc b => 2 * acc + (if b = 0x31#8 then 1 else 0)) 0

/-- The word DECODE_TEXT hands to DECODE_WORD, or the first of the two failures (R210, R212, R213, R274). -/
def readWord (raw : Text) : Except DecFailure Word :=
  if (normalise raw).length ≠ 16 then .error .malformedWidth
  else if (normalise raw).all isBinDigit then .ok (BitVec.ofNat 16 (binValue (normalise raw)))
  else .error .malformedDigits

end Sys2Proof.Machine
end

