-- ==== Sys2Proof/Machine/TextEncode.lean ====
section
/-! DEFINITION. What ENCODE_TEXT does before ENCODE_FIELDS: upper-casing, tokens, the instruction family, the token
count, the operands left to right (45_text_encode.md R230 to R244). Total on every string, rejecting by name. -/

namespace Sys2Proof.Machine

/-! Tokens. -/

/-- ASCII `a` to `z` become `A` to `Z`; every other code is unchanged (R231). -/
def upperCode (b : Byte) : Byte := if 0x61 ≤ b.toNat ∧ b.toNat ≤ 0x7A then b - 0x20#8 else b

/-- Every comma becomes a space (R232). -/
def commaToSpace (b : Byte) : Byte := if b = 0x2C#8 then 0x20#8 else b

/-- The maximal runs of characters not in WS; `cur` is the run being read, last character first (R233). -/
def splitRuns : Text → Text → List Text
  | [], cur => if cur.isEmpty then [] else [cur.reverse]
  | b :: bs, cur =>
    if isWs b then (if cur.isEmpty then splitRuns bs [] else cur.reverse :: splitRuns bs [])
    else splitRuns bs (b :: cur)

/-- The tokens of a line (R231 to R233). -/
def tokens (raw : Text) : List Text := splitRuns (raw.map fun b => commaToSpace (upperCode b)) []

/-! Families. -/

/-- The instruction families, named by the first token (R235); BR's carries its n, z, p bits (R236). -/
inductive Family where
  | add | and | br (nzp : BitVec 3) | jmp | ret | jsr | jsrr | ld | ldi | ldr | lea | not | rti | st | sti | str | trap
deriving DecidableEq, Repr

/-- The families whose mnemonic is matched exactly (R235). -/
def exactFamilies : List (Text × Family) :=
  [(chars ['A', 'D', 'D'], .add), (chars ['A', 'N', 'D'], .and), (chars ['J', 'M', 'P'], .jmp),
   (chars ['R', 'E', 'T'], .ret), (chars ['J', 'S', 'R'], .jsr), (chars ['J', 'S', 'R', 'R'], .jsrr),
   (chars ['L', 'D'], .ld), (chars ['L', 'D', 'I'], .ldi), (chars ['L', 'D', 'R'], .ldr),
   (chars ['L', 'E', 'A'], .lea), (chars ['N', 'O', 'T'], .not), (chars ['R', 'T', 'I'], .rti),
   (chars ['S', 'T'], .st), (chars ['S', 'T', 'I'], .sti), (chars ['S', 'T', 'R'], .str),
   (chars ['T', 'R', 'A', 'P'], .trap)]

/-- `family(tok[0])`: `BR` by prefix with an accepted suffix, the others by the whole token; none is UnknownMnemonic
(R235, R236). -/
def familyOf (mnemonic : Text) : Option Family :=
  if mnemonic.take 2 = chars ['B', 'R'] then (brSuffixBits (mnemonic.drop 2)).map Family.br
  else (exactFamilies.find? fun p => p.1 == mnemonic).map Prod.snd

/-- The least number of tokens, the mnemonic included (R237). -/
def Family.minTokens : Family → Nat
  | .ret => 1
  | .rti => 1
  | .br _ => 2
  | .jmp => 2
  | .jsr => 2
  | .jsrr => 2
  | .trap => 2
  | .not => 3
  | .ld => 3
  | .ldi => 3
  | .lea => 3
  | .st => 3
  | .sti => 3
  | .add => 4
  | .and => 4
  | .ldr => 4
  | .str => 4

/-! Operands, left to right, the first bad token deciding (R275). -/

/-- `tok[k]`; every token an operand rule names is there once the count has been tested. -/
def token (tok : List Text) (k : Nat) : Text := tok.getD k []

/-- A signed immediate token, as the integer of its field (R240, R243). -/
def signedTok (n : Nat) (t : Text) : Except EncFailure Int := (immTok n t).map sext

/-- ADD's and AND's operands: the third is a register when its token begins with `R` (R244; R132, R133, R136, R137). -/
def parseOperate (regForm : Reg → Reg → Reg → Instr) (immForm : Reg → Reg → Int → Instr) (tok : List Text) :
    Except EncFailure Instr := do
  let dr ← regTok (token tok 1)
  let sr1 ← regTok (token tok 2)
  if (token tok 3).take 1 = chars ['R'] then
    let sr2 ← regTok (token tok 3)
    return regForm dr sr1 sr2
  else
    let imm5 ← signedTok 5 (token tok 3)
    return immForm dr sr1 imm5

/-- One register operand: JMP, JSRR (R153, R159). -/
def parseBase (form : Reg → Instr) (tok : List Text) : Except EncFailure Instr := do
  let base ← regTok (token tok 1)
  return form base

/-- One signed immediate: BR, JSR (R151, R157). -/
def parseOffset (n : Nat) (form : Int → Instr) (tok : List Text) : Except EncFailure Instr := do
  let off ← signedTok n (token tok 1)
  return form off

/-- A register and an offset9: LD, LDI, LEA, ST, STI (R181, R183, R187, R189, R191). -/
def parseRegOffset (form : Reg → Int → Instr) (tok : List Text) : Except EncFailure Instr := do
  let r ← regTok (token tok 1)
  let off9 ← signedTok 9 (token tok 2)
  return form r off9

/-- Two registers and an offset6: LDR, STR (R185, R193). The third operand is never a register. -/
def parseRegBaseOffset (form : Reg → Reg → Int → Instr) (tok : List Text) : Except EncFailure Instr := do
  let r ← regTok (token tok 1)
  let base ← regTok (token tok 2)
  let off6 ← signedTok 6 (token tok 3)
  return form r base off6

/-- Two registers: NOT (R139). -/
def parseNot (tok : List Text) : Except EncFailure Instr := do
  let dr ← regTok (token tok 1)
  let sr ← regTok (token tok 2)
  return .notR dr sr

/-- TRAP's vector: an ordinary immediate token cut to 8 bits, unsigned (R163). -/
def parseTrap (tok : List Text) : Except EncFailure Instr := do
  let vec8 ← immTok 8 (token tok 1)
  return .trap vec8

/-- The operands of each family. -/
def Family.parse : Family → List Text → Except EncFailure Instr
  | .add, tok => parseOperate .addR .addI tok
  | .and, tok => parseOperate .andR .andI tok
  | .br nzp, tok => parseOffset 9 (brOf nzp) tok
  | .jmp, tok => parseBase .jmp tok
  | .ret, _ => .ok .ret
  | .jsr, tok => parseOffset 11 .jsr tok
  | .jsrr, tok => parseBase .jsrr tok
  | .ld, tok => parseRegOffset .ld tok
  | .ldi, tok => parseRegOffset .ldi tok
  | .ldr, tok => parseRegBaseOffset .ldr tok
  | .lea, tok => parseRegOffset .lea tok
  | .not, tok => parseNot tok
  | .rti, _ => .ok .rti
  | .st, tok => parseRegOffset .st tok
  | .sti, tok => parseRegOffset .sti tok
  | .str, tok => parseRegBaseOffset .str tok
  | .trap, tok => parseTrap tok

/-- The instruction a token sequence writes, or the first failure in the order of R275. Tokens beyond the family's
operands are not read (R238). -/
def parseTokens : List Text → Except EncFailure Instr
  | [] => .error .emptyInput
  | mnemonic :: operands =>
    match familyOf mnemonic with
    | none => .error .unknownMnemonic
    | some f =>
      if operands.length + 1 < f.minTokens then .error .missingOperand
      else f.parse (mnemonic :: operands)

/-- The instruction a line writes (R230). -/
def parseLine (raw : Text) : Except EncFailure Instr := parseTokens (tokens raw)

end Sys2Proof.Machine
end

