-- ==== Sys2Proof/Machine/Evaluate.lean ====
section
/-! DEFINITION. One evaluation of each port group: take the instruction that stands on the group's inputs and run its
meaning there, or signal the failure (10_state.md R29, R30; 20_memory.md R44). -/

namespace Sys2Proof.Machine

/-- The word decoder's group: the word on `dec_word` (R100). -/
def evalDecWord (s : State) : Result :=
  exec (decodeWord s.decWord.word) { s with port := .decWord }

/-- The word encoder's group (R102, R108). -/
def evalEncFields (s : State) : Result :=
  match instrOfFields s.encFields.kind s.encFields.ra s.encFields.rb s.encFields.rc s.encFields.nzp s.encFields.imm
      s.encFields.vec with
  | some i => exec i { s with port := .encFields }
  | none => .next (failEncFields { s with port := .encFields })

/-- The text decoder's group (R210). -/
def evalDecText (s : State) : Result :=
  match readWord s.decText.textIn with
  | .ok w => exec (decodeWord w) { s with port := .decText }
  | .error f => .next (failDecText f { s with port := .decText })

/-- The text encoder's group (R230). -/
def evalEncText (s : State) : Result :=
  match parseLine s.encText.textIn with
  | .ok i => exec i { s with port := .encText }
  | .error f => .next (failEncText f { s with port := .encText })

/-- All four groups, one after another; no group reads what another drives, so the order does not show (R29, R45). -/
def evalAll (s : State) : Result :=
  andThen (evalDecWord s) fun s1 =>
    andThen (evalEncFields s1) fun s2 =>
      andThen (evalDecText s2) fun s3 =>
        andThen (evalEncText s3) fun s4 => .next { s4 with port := s.port }

/-- `s` with a word on `dec_word` (R27, R40). -/
def presentWord (w : Word) (s : State) : State :=
  { s with decWord := { s.decWord with word := w } }

end Sys2Proof.Machine
end

