-- ==== Sys2Proof/Machine/Step.lean ====
section
/-! DEFINITION. The step: the block settles, every output taking the value its rules give for the present inputs
(10_state.md R30, R32; 70_reset_and_hazards.md R304). -/

namespace Sys2Proof.Machine

/-- One settling of the block: the four evaluations. -/
def step (s : State) : Host.Outcome State Fault Refusal := evalAll s

/-- `s` with the instruction whose bits are `w` (bits at `nbits` and above 0) standing where the decoder takes its
word: on `dec_word`. The block fetches nothing itself (20_memory.md R40); its user hands it the word (log entry 4). -/
def State.withFetchWord (s : State) (nbits w : Nat) : State :=
  presentWord (BitVec.ofNat 16 (w % 2 ^ nbits)) s

end Sys2Proof.Machine
end

