-- ==== Sys2Proof/Machine/Codec.lean ====
section
/-! DEFINITION. The block's functions as functions from inputs to outcomes, free of any state: the words in which claims
about a step are made. ENCODE_FIELDS is written here a second time, from the layouts of 30_encoding.md R64, as
concatenations of fields; the machine assembles its words as 40_codec_operations.md R102 does. -/

namespace Sys2Proof.Machine

/-- The translation of an instruction; none for the reserved opcode, which has no record, text or word (R68). -/
def translation : Instr → Option Translation
  | .addR dr sr1 sr2 => some (translateAddR dr sr1 sr2)
  | .addI dr sr1 imm5 => some (translateAddI dr sr1 imm5)
  | .andR dr sr1 sr2 => some (translateAndR dr sr1 sr2)
  | .andI dr sr1 imm5 => some (translateAndI dr sr1 imm5)
  | .brNone off9 => some (translateBrNone off9)
  | .brP off9 => some (translateBrP off9)
  | .brZ off9 => some (translateBrZ off9)
  | .brZP off9 => some (translateBrZP off9)
  | .brN off9 => some (translateBrN off9)
  | .brNP off9 => some (translateBrNP off9)
  | .brNZ off9 => some (translateBrNZ off9)
  | .brNZP off9 => some (translateBrNZP off9)
  | .jmp base => some (translateJmp base)
  | .ret => some translateRet
  | .jsr off11 => some (translateJsr off11)
  | .jsrr base => some (translateJsrr base)
  | .ld dr off9 => some (translateLd dr off9)
  | .ldi dr off9 => some (translateLdi dr off9)
  | .lea dr off9 => some (translateLea dr off9)
  | .ldr dr base off6 => some (translateLdr dr base off6)
  | .notR dr sr => some (translateNot dr sr)
  | .rti => some translateRti
  | .st sr off9 => some (translateSt sr off9)
  | .sti sr off9 => some (translateSti sr off9)
  | .str sr base off6 => some (translateStr sr base off6)
  | .trap vec8 => some (translateTrap vec8)
  | .illegal => none

/-- RENDER: the canonical text of an instruction (44_text_decode.md R215); the reserved opcode has none. -/
def render (i : Instr) : Text :=
  match translation i with
  | some t => t.text
  | none => []

/-- DECODE_WORD: the decoded record, or UnknownOpcode (40_codec_operations.md R100, R107). -/
def codecDecodeWord (w : Word) : Except DecFailure Record :=
  match translation (decodeWord w) with
  | some t => .ok t.record
  | none => .error .unknownOpcode

/-- DECODE_TEXT (44_text_decode.md R210). -/
def codecDecodeText (raw : Text) : Except DecFailure Text :=
  match readWord raw with
  | .error f => .error f
  | .ok w =>
    match translation (decodeWord w) with
    | some t => .ok t.text
    | none => .error .unknownOpcode

/-- ENCODE_FIELDS, laid out field by field, bit 15 first (R64, R66, R70, R102); none is `enc_ok` = 0 (R108). -/
def codecEncodeFields (kind : BitVec 5) (ra rb rc : Reg) (nzp : BitVec 3) (imm : NativeWord) (vec : BitVec 8) :
    Option Word :=
  let imm5 : BitVec 5 := imm.extractLsb' 0 5
  let off6 : BitVec 6 := imm.extractLsb' 0 6
  let off9 : BitVec 9 := imm.extractLsb' 0 9
  let off11 : BitVec 11 := imm.extractLsb' 0 11
  match kind.toNat with
  | 1 => some (0b0001#4 ++ ra ++ rb ++ 0b000#3 ++ rc)
  | 2 => some (0b0001#4 ++ ra ++ rb ++ 1#1 ++ imm5)
  | 3 => some (0b0101#4 ++ ra ++ rb ++ 0b000#3 ++ rc)
  | 4 => some (0b0101#4 ++ ra ++ rb ++ 1#1 ++ imm5)
  | 5 => some (0b0000#4 ++ nzp ++ off9)
  | 6 => some (0b1100#4 ++ 0b000#3 ++ rb ++ 0#6)
  | 7 => some (0b1100#4 ++ 0b000#3 ++ 0b111#3 ++ 0#6)
  | 8 => some (0b0100#4 ++ 1#1 ++ off11)
  | 9 => some (0b0100#4 ++ 0#1 ++ 0b00#2 ++ rb ++ 0#6)
  | 10 => some (0b0010#4 ++ ra ++ off9)
  | 11 => some (0b1010#4 ++ ra ++ off9)
  | 12 => some (0b0110#4 ++ ra ++ rb ++ off6)
  | 13 => some (0b1110#4 ++ ra ++ off9)
  | 14 => some (0b1001#4 ++ ra ++ rb ++ Config.notFill)
  | 15 => some (0b1000#4 ++ 0#12)
  | 16 => some (0b0011#4 ++ ra ++ off9)
  | 17 => some (0b1011#4 ++ ra ++ off9)
  | 18 => some (0b0111#4 ++ ra ++ rb ++ off6)
  | 19 => some (0b1111#4 ++ 0b0000#4 ++ vec)
  | _ => none

/-- ENCODE_TEXT, giving the word; the text is its BIN16 (45_text_encode.md R230, R245). No instruction a line writes
lacks a word; the last case stands for the reserved opcode, which no mnemonic names (R68). -/
def codecEncodeText (raw : Text) : Except EncFailure Word :=
  match parseLine raw with
  | .error f => .error f
  | .ok i =>
    match encode i with
    | some w => .ok w
    | none => .error .unknownMnemonic

end Sys2Proof.Machine
end

