-- ==== Sys2Proof/WellFormed.lean ====
section
/-! DEFINITION. Which terms of Instr DECODE_WORD can return as an instruction: the ranges of 40_codec_operations.md
R101, with JMP's base other than 7 (47_properties.md R323). -/

namespace Sys2Proof

/-- `lo <= a <= hi`. -/
def inRange (lo hi a : Int) : Bool := decide (lo ≤ a) && decide (a ≤ hi)

/-- R101's ranges; `JMP 7` is never returned (it is RET), and the illegal row is no instruction (R68). -/
def Instr.wellFormed : Instr → Bool
  | .addR _ _ _ => true
  | .addI _ _ imm5 => inRange (-16) 15 imm5
  | .andR _ _ _ => true
  | .andI _ _ imm5 => inRange (-16) 15 imm5
  | .brNone off9 => inRange (-256) 255 off9
  | .brP off9 => inRange (-256) 255 off9
  | .brZ off9 => inRange (-256) 255 off9
  | .brZP off9 => inRange (-256) 255 off9
  | .brN off9 => inRange (-256) 255 off9
  | .brNP off9 => inRange (-256) 255 off9
  | .brNZ off9 => inRange (-256) 255 off9
  | .brNZP off9 => inRange (-256) 255 off9
  | .jmp base => decide (base ≠ 7#3)
  | .ret => true
  | .jsr off11 => inRange (-1024) 1023 off11
  | .jsrr _ => true
  | .ld _ off9 => inRange (-256) 255 off9
  | .ldi _ off9 => inRange (-256) 255 off9
  | .lea _ off9 => inRange (-256) 255 off9
  | .ldr _ _ off6 => inRange (-32) 31 off6
  | .notR _ _ => true
  | .rti => true
  | .st _ off9 => inRange (-256) 255 off9
  | .sti _ off9 => inRange (-256) 255 off9
  | .str _ _ off6 => inRange (-32) 31 off6
  | .trap _ => true
  | .illegal => false

end Sys2Proof
end

