-- ==== Sys2Proof/Safety.lean ====
section
/-! DEFINITION. The words claims use. A safe run of this block is one in which every output is the function of its
group's present inputs that the rules give (10_state.md R30, R32): `Settled`. -/

namespace Sys2Proof.Machine

/-! What the outputs of a group must be, given its inputs. -/

/-- The word decoder's group when settled on `word` (R27, R31, R107). -/
def settledDecWord (word : Word) : DecWordPorts :=
  match codecDecodeWord word with
  | .ok r =>
    { word := word, ok := true, err := 0#2, kind := r.kind.code, opcode := r.opcode, ra := r.ra, rb := r.rb,
      rc := r.rc, nzp := r.nzp, imm := trunc 16 r.imm, vec := r.vec }
  | .error f =>
    { word := word, ok := false, err := f.code, kind := 0#5, opcode := word.extractLsb' 12 4, ra := 0#3, rb := 0#3,
      rc := 0#3, nzp := 0#3, imm := 0#16, vec := 0#8 }

/-- The word encoder's group when settled on the inputs that stand on `p` (R28, R108). -/
def settledEncFields (p : EncFieldsPorts) : EncFieldsPorts :=
  match codecEncodeFields p.kind p.ra p.rb p.rc p.nzp p.imm p.vec with
  | some w => { p with word := w, ok := true }
  | none => { p with word := 0#16, ok := false }

/-- The text decoder's group when settled on `textIn` (R29, R214). -/
def settledDecText (textIn : Text) : DecTextPorts :=
  match codecDecodeText textIn with
  | .ok t => { textIn := textIn, ok := true, err := 0#2, textOut := t }
  | .error f => { textIn := textIn, ok := false, err := f.code, textOut := [] }

/-- The text encoder's group when settled on `textIn` (R29, R245). -/
def settledEncText (textIn : Text) : EncTextPorts :=
  match codecEncodeText textIn with
  | .ok w => { textIn := textIn, ok := true, err := 0#3, word := w, bitsOut := bin16 w }
  | .error f => { textIn := textIn, ok := false, err := f.code, word := 0#16, bitsOut := [] }

/-- Every output of the block equals the function of its present inputs (R30, R32). -/
def Settled (s : State) : Prop :=
  s.decWord = settledDecWord s.decWord.word ∧ s.encFields = settledEncFields s.encFields ∧
    s.decText = settledDecText s.decText.textIn ∧ s.encText = settledEncText s.encText.textIn

/-- Two states with the same inputs on all four groups. -/
def SameInputs (s t : State) : Prop :=
  t.decWord.word = s.decWord.word ∧
    (t.encFields.kind = s.encFields.kind ∧ t.encFields.ra = s.encFields.ra ∧ t.encFields.rb = s.encFields.rb ∧
      t.encFields.rc = s.encFields.rc ∧ t.encFields.nzp = s.encFields.nzp ∧ t.encFields.imm = s.encFields.imm ∧
      t.encFields.vec = s.encFields.vec) ∧
    t.decText.textIn = s.decText.textIn ∧ t.encText.textIn = s.encText.textIn

/-! What an instruction does, on each group. -/

/-- On the decoder's groups `i` completes, driving exactly this record and this text, and nothing else changes. -/
def DecodesTo (i : Instr) (kind : BitVec 5) (opcode : BitVec 4) (ra rb rc : Reg) (nzp : BitVec 3) (imm : NativeWord)
    (vec : BitVec 8) (text : Text) : Prop :=
  ∀ s : State,
    (s.port = .decWord →
      exec i s = .next { s with decWord := { word := s.decWord.word, ok := true, err := 0#2, kind := kind,
                                             opcode := opcode, ra := ra, rb := rb, rc := rc, nzp := nzp, imm := imm,
                                             vec := vec } }) ∧
    (s.port = .decText →
      exec i s = .next { s with decText := { textIn := s.decText.textIn, ok := true, err := 0#2, textOut := text } })

/-- On the encoder's groups `i` completes, driving exactly the word `w`, and nothing else changes. -/
def AssemblesTo (i : Instr) (w : Word) : Prop :=
  ∀ s : State,
    (s.port = .encFields → exec i s = .next { s with encFields := { s.encFields with word := w, ok := true } }) ∧
    (s.port = .encText →
      exec i s = .next { s with encText := { textIn := s.encText.textIn, ok := true, err := 0#3, word := w,
                                             bitsOut := bin16 w } })

/-- `a, b`: two operands as printed (44_text_decode.md R215). -/
def comma (a b : Text) : Text := a ++ chars [',', ' '] ++ b

/-! Ignored bits, fill and canonical words (30_encoding.md R69, R70; 47_properties.md R321). -/

/-- The bits of `w` that the format it selects does not name (R69); of a reserved word, all below the opcode (R107). -/
def ignoredBits (w : Word) : Word :=
  match (w.extractLsb' 12 4).toNat with
  | 0b0001 => if w.getLsbD 5 then 0#16 else 0x0018#16
  | 0b0101 => if w.getLsbD 5 then 0#16 else 0x0018#16
  | 0b1100 => 0x0E3F#16
  | 0b0100 => if w.getLsbD 11 then 0#16 else 0x063F#16
  | 0b1001 => 0x003F#16
  | 0b1000 => 0x0FFF#16
  | 0b1111 => 0x0F00#16
  | 0b1101 => 0x0FFF#16
  | _ => 0#16

/-- What the encoder writes in the ignored bits: 0, and NOT's fill (R70). -/
def fillBits (notFill : BitVec 6) (w : Word) : Word :=
  if w.extractLsb' 12 4 = 0b1001#4 then notFill.setWidth 16 else 0#16

/-- `canon_F(w)`: every ignored bit replaced by its fill (R321). -/
def canonF (notFill : BitVec 6) (w : Word) : Word := (w &&& ~~~ignoredBits w) ||| fillBits notFill w

/-- `canon_T(w)`: in addition, a BR with n, z, p = 000 gets 111 (R321). -/
def canonT (w : Word) : Word :=
  if w.extractLsb' 9 7 = 0#7 then canonF Config.notFill w ||| 0x0E00#16 else canonF Config.notFill w

/-! The opcode table as data (30_encoding.md R73). -/

/-- One row: the mnemonic as printed (none for the illegal row), the kind, mask and match. -/
structure TableRow where
  mnemonic : Text
  kind : Kind
  mask : Word
  pattern : Word
deriving DecidableEq, Repr

/-- A word selects a row when `w & mask = match` (R73). -/
def TableRow.selects (r : TableRow) (w : Word) : Prop := w &&& r.mask = r.pattern

/-- How many bits of the mask are 1; of two rows a word selects, the one with more wins (R67, R73). -/
def TableRow.weight (r : TableRow) : Nat := (List.range 16).countP fun k => r.mask.getLsbD k

/-- The rows of ADD and AND. -/
def tableOperate : List TableRow :=
  [⟨chars ['A', 'D', 'D'], .addR, 0xF020#16, 0x1000#16⟩,
   ⟨chars ['A', 'D', 'D'], .addI, 0xF020#16, 0x1020#16⟩,
   ⟨chars ['A', 'N', 'D'], .andR, 0xF020#16, 0x5000#16⟩,
   ⟨chars ['A', 'N', 'D'], .andI, 0xF020#16, 0x5020#16⟩]

/-- The eight rows of BR. -/
def tableBranch : List TableRow :=
  [⟨chars ['B', 'R', 'n', 'z', 'p'], .br, 0xFE00#16, 0x0000#16⟩,
   ⟨chars ['B', 'R', 'p'], .br, 0xFE00#16, 0x0200#16⟩,
   ⟨chars ['B', 'R', 'z'], .br, 0xFE00#16, 0x0400#16⟩,
   ⟨chars ['B', 'R', 'z', 'p'], .br, 0xFE00#16, 0x0600#16⟩,
   ⟨chars ['B', 'R', 'n'], .br, 0xFE00#16, 0x0800#16⟩,
   ⟨chars ['B', 'R', 'n', 'p'], .br, 0xFE00#16, 0x0A00#16⟩,
   ⟨chars ['B', 'R', 'n', 'z'], .br, 0xFE00#16, 0x0C00#16⟩,
   ⟨chars ['B', 'R', 'n', 'z', 'p'], .br, 0xFE00#16, 0x0E00#16⟩]

/-- The other rows; the last is the illegal one. -/
def tableRest : List TableRow :=
  [⟨chars ['J', 'M', 'P'], .jmp, 0xF000#16, 0xC000#16⟩,
   ⟨chars ['R', 'E', 'T'], .ret, 0xF1C0#16, 0xC1C0#16⟩,
   ⟨chars ['J', 'S', 'R'], .jsr, 0xF800#16, 0x4800#16⟩,
   ⟨chars ['J', 'S', 'R', 'R'], .jsrr, 0xF800#16, 0x4000#16⟩,
   ⟨chars ['L', 'D'], .ld, 0xF000#16, 0x2000#16⟩,
   ⟨chars ['L', 'D', 'I'], .ldi, 0xF000#16, 0xA000#16⟩,
   ⟨chars ['L', 'E', 'A'], .lea, 0xF000#16, 0xE000#16⟩,
   ⟨chars ['L', 'D', 'R'], .ldr, 0xF000#16, 0x6000#16⟩,
   ⟨chars ['N', 'O', 'T'], .not, 0xF000#16, 0x9000#16⟩,
   ⟨chars ['R', 'T', 'I'], .rti, 0xF000#16, 0x8000#16⟩,
   ⟨chars ['S', 'T'], .st, 0xF000#16, 0x3000#16⟩,
   ⟨chars ['S', 'T', 'I'], .sti, 0xF000#16, 0xB000#16⟩,
   ⟨chars ['S', 'T', 'R'], .str, 0xF000#16, 0x7000#16⟩,
   ⟨chars ['T', 'R', 'A', 'P'], .trap, 0xF000#16, 0xF000#16⟩,
   ⟨[], .none, 0xF000#16, 0xD000#16⟩]

/-- spec/opcode_table.json's 27 rows. -/
def opcodeTable : List TableRow := tableOperate ++ tableBranch ++ tableRest

/-- The kind of an instruction; NONE for the reserved opcode (R66). -/
def kindOf (i : Instr) : Kind :=
  match translation i with
  | some t => t.record.kind
  | none => .none

/-- The first tokens ENCODE_TEXT accepts, upper-cased, each with its family's least number of tokens, itself included
(45_text_encode.md R235, R236, R237). -/
def firstTokens : List (Text × Nat) :=
  [(chars ['R', 'E', 'T'], 1), (chars ['R', 'T', 'I'], 1)] ++
  [(chars ['B', 'R'], 2), (chars ['B', 'R', 'N'], 2), (chars ['B', 'R', 'Z'], 2), (chars ['B', 'R', 'P'], 2),
   (chars ['B', 'R', 'N', 'Z'], 2), (chars ['B', 'R', 'N', 'P'], 2), (chars ['B', 'R', 'Z', 'P'], 2),
   (chars ['B', 'R', 'N', 'Z', 'P'], 2)] ++
  [(chars ['J', 'M', 'P'], 2), (chars ['J', 'S', 'R'], 2), (chars ['J', 'S', 'R', 'R'], 2),
   (chars ['T', 'R', 'A', 'P'], 2)] ++
  [(chars ['N', 'O', 'T'], 3), (chars ['L', 'D'], 3), (chars ['L', 'D', 'I'], 3), (chars ['L', 'E', 'A'], 3),
   (chars ['S', 'T'], 3), (chars ['S', 'T', 'I'], 3)] ++
  [(chars ['A', 'D', 'D'], 4), (chars ['A', 'N', 'D'], 4), (chars ['L', 'D', 'R'], 4), (chars ['S', 'T', 'R'], 4)]

/-- The characters that separate tokens: WS and the comma (R211, R232, R233). -/
def separators : Text := [0x20#8, 0x09#8, 0x0A#8, 0x0D#8, 0x2C#8]

end Sys2Proof.Machine
end

