-- ==== Sys2Proof/Certificates/Slice0/Obligations.lean ====
section
/-! DEFINITION. The statements for the provers, each from the spec's rules. -/

open Sys2Proof Sys2Proof.Machine

/-- sext_N is the two's-complement reading of a field (R325). -/
def Obligations.SignExtensionReadsTwosComplement : Prop :=
    ∀ (n : Nat) (v : BitVec n), 0 < n →
    sext v = (if v.getLsbD (n - 1) then (v.toNat : Int) - 2 ^ n else (v.toNat : Int)) ∧
    (-(2 : Int) ^ (n - 1) ≤ sext v ∧ sext v ≤ (2 : Int) ^ (n - 1) - 1) ∧
    (sext v < 0 ↔ v.getLsbD (n - 1) = true) ∧
    sext v % (2 : Int) ^ n = (v.toNat : Int) ∧
    (∀ W k : Nat, n ≤ W → k < W →
      (trunc W (sext v)).getLsbD k = if k < n then v.getLsbD k else v.getLsbD (n - 1))

/-- trunc_N(a) is a mod 2^N; it is idempotent and undoes sext_N (R11). -/
def Obligations.TruncationIsReductionModTwoToN : Prop :=
    (∀ (n : Nat) (a : Int), ((trunc n a).toNat : Int) = a % (2 : Int) ^ n) ∧
    (∀ (n : Nat) (a : Int), trunc n ((trunc n a).toNat : Int) = trunc n a) ∧
    (∀ (n : Nat) (v : BitVec n), trunc n (sext v) = v)

/-- sext_N(trunc_N(a)) = a exactly when a fits the signed field (40_codec_operations.md R104). -/
def Obligations.SextOfTruncIsIdentityExactlyInRange : Prop :=
    ∀ (n : Nat) (a : Int), 0 < n →
    (sext (trunc n a) = a ↔ -(2 : Int) ^ (n - 1) ≤ a ∧ a < (2 : Int) ^ (n - 1))

/-- Words written out bit by bit decode to the instructions they stand for (41_operate.md R130, R131, R138,
42_control.md R150, R154, R162, 43_data_movement.md R184, R188). -/
def Obligations.WrittenOutWordsDecode : Prop :=
    decodeWord 0b0001001010000011#16 = .addR 1#3 2#3 3#3 ∧
    decodeWord 0b0001001010100001#16 = .addI 1#3 2#3 1 ∧
    decodeWord 0b1001001010111111#16 = .notR 1#3 2#3 ∧
    decodeWord 0b0000100000000100#16 = .brN 4 ∧
    decodeWord 0b1100000111000000#16 = .ret ∧
    decodeWord 0b1111000000100101#16 = .trap 0x25#8 ∧
    decodeWord 0b0110111000100000#16 = .ldr 7#3 0#3 (-32) ∧
    decodeWord 0b0011111111111111#16 = .st 7#3 (-1)

/-- ADD: both forms are decoded, reported and printed as the rules give (R130, R131). -/
def Obligations.AddDecodes : Prop :=
    (∀ w : Word, w.extractLsb' 12 4 = 0b0001#4 → w.getLsbD 5 = false →
      decodeWord w = .addR (w.extractLsb' 9 3) (w.extractLsb' 6 3) (w.extractLsb' 0 3)) ∧
    (∀ w : Word, w.extractLsb' 12 4 = 0b0001#4 → w.getLsbD 5 = true →
      decodeWord w = .addI (w.extractLsb' 9 3) (w.extractLsb' 6 3) (sext (w.extractLsb' 0 5))) ∧
    (∀ dr sr1 sr2 : Reg,
      DecodesTo (.addR dr sr1 sr2) 1#5 0b0001#4 dr sr1 sr2 0#3 0#16 0#8
        (chars ['A', 'D', 'D', ' '] ++ comma (regText dr) (comma (regText sr1) (regText sr2)))) ∧
    (∀ (dr sr1 : Reg) (imm5 : BitVec 5),
      DecodesTo (.addI dr sr1 (sext imm5)) 2#5 0b0001#4 dr sr1 0#3 0#3 (imm5.signExtend 16) 0#8
        (chars ['A', 'D', 'D', ' '] ++ comma (regText dr) (comma (regText sr1) (immText (sext imm5)))))

/-- AND: both forms are decoded, reported and printed as the rules give (R134, R135). -/
def Obligations.AndDecodes : Prop :=
    (∀ w : Word, w.extractLsb' 12 4 = 0b0101#4 → w.getLsbD 5 = false →
      decodeWord w = .andR (w.extractLsb' 9 3) (w.extractLsb' 6 3) (w.extractLsb' 0 3)) ∧
    (∀ w : Word, w.extractLsb' 12 4 = 0b0101#4 → w.getLsbD 5 = true →
      decodeWord w = .andI (w.extractLsb' 9 3) (w.extractLsb' 6 3) (sext (w.extractLsb' 0 5))) ∧
    (∀ dr sr1 sr2 : Reg,
      DecodesTo (.andR dr sr1 sr2) 3#5 0b0101#4 dr sr1 sr2 0#3 0#16 0#8
        (chars ['A', 'N', 'D', ' '] ++ comma (regText dr) (comma (regText sr1) (regText sr2)))) ∧
    (∀ (dr sr1 : Reg) (imm5 : BitVec 5),
      DecodesTo (.andI dr sr1 (sext imm5)) 4#5 0b0101#4 dr sr1 0#3 0#3 (imm5.signExtend 16) 0#8
        (chars ['A', 'N', 'D', ' '] ++ comma (regText dr) (comma (regText sr1) (immText (sext imm5)))))

/-- NOT is decoded, reported and printed as R138 gives (R138). -/
def Obligations.NotDecodes : Prop :=
    (∀ w : Word, w.extractLsb' 12 4 = 0b1001#4 → decodeWord w = .notR (w.extractLsb' 9 3) (w.extractLsb' 6 3)) ∧
    (∀ dr sr : Reg,
      DecodesTo (.notR dr sr) 14#5 0b1001#4 dr sr 0#3 0#3 0#16 0#8
        (chars ['N', 'O', 'T', ' '] ++ comma (regText dr) (regText sr)))

/-- BR: the eight n, z, p rows are decoded, reported and printed as R150 and R219 give (R150, R219). -/
def Obligations.BrDecodes : Prop :=
    (∀ w : Word,
      (w.extractLsb' 9 7 = 0b0000000#7 → decodeWord w = .brNone (sext (w.extractLsb' 0 9))) ∧
      (w.extractLsb' 9 7 = 0b0000001#7 → decodeWord w = .brP (sext (w.extractLsb' 0 9))) ∧
      (w.extractLsb' 9 7 = 0b0000010#7 → decodeWord w = .brZ (sext (w.extractLsb' 0 9))) ∧
      (w.extractLsb' 9 7 = 0b0000011#7 → decodeWord w = .brZP (sext (w.extractLsb' 0 9))) ∧
      (w.extractLsb' 9 7 = 0b0000100#7 → decodeWord w = .brN (sext (w.extractLsb' 0 9))) ∧
      (w.extractLsb' 9 7 = 0b0000101#7 → decodeWord w = .brNP (sext (w.extractLsb' 0 9))) ∧
      (w.extractLsb' 9 7 = 0b0000110#7 → decodeWord w = .brNZ (sext (w.extractLsb' 0 9))) ∧
      (w.extractLsb' 9 7 = 0b0000111#7 → decodeWord w = .brNZP (sext (w.extractLsb' 0 9)))) ∧
    (∀ off9 : BitVec 9,
      DecodesTo (.brNone (sext off9)) 5#5 0b0000#4 0#3 0#3 0#3 0b000#3 (off9.signExtend 16) 0#8
        (chars ['B', 'R', 'n', 'z', 'p', ' '] ++ immText (sext off9)) ∧
      DecodesTo (.brP (sext off9)) 5#5 0b0000#4 0#3 0#3 0#3 0b001#3 (off9.signExtend 16) 0#8
        (chars ['B', 'R', 'p', ' '] ++ immText (sext off9)) ∧
      DecodesTo (.brZ (sext off9)) 5#5 0b0000#4 0#3 0#3 0#3 0b010#3 (off9.signExtend 16) 0#8
        (chars ['B', 'R', 'z', ' '] ++ immText (sext off9)) ∧
      DecodesTo (.brZP (sext off9)) 5#5 0b0000#4 0#3 0#3 0#3 0b011#3 (off9.signExtend 16) 0#8
        (chars ['B', 'R', 'z', 'p', ' '] ++ immText (sext off9)) ∧
      DecodesTo (.brN (sext off9)) 5#5 0b0000#4 0#3 0#3 0#3 0b100#3 (off9.signExtend 16) 0#8
        (chars ['B', 'R', 'n', ' '] ++ immText (sext off9)) ∧
      DecodesTo (.brNP (sext off9)) 5#5 0b0000#4 0#3 0#3 0#3 0b101#3 (off9.signExtend 16) 0#8
        (chars ['B', 'R', 'n', 'p', ' '] ++ immText (sext off9)) ∧
      DecodesTo (.brNZ (sext off9)) 5#5 0b0000#4 0#3 0#3 0#3 0b110#3 (off9.signExtend 16) 0#8
        (chars ['B', 'R', 'n', 'z', ' '] ++ immText (sext off9)) ∧
      DecodesTo (.brNZP (sext off9)) 5#5 0b0000#4 0#3 0#3 0#3 0b111#3 (off9.signExtend 16) 0#8
        (chars ['B', 'R', 'n', 'z', 'p', ' '] ++ immText (sext off9)))

/-- JMP and RET are told apart by baseR, decoded, reported and printed (R152, R154). -/
def Obligations.JmpAndRetDecode : Prop :=
    (∀ w : Word, w.extractLsb' 12 4 = 0b1100#4 → w.extractLsb' 6 3 ≠ 7#3 → decodeWord w = .jmp (w.extractLsb' 6 3)) ∧
    (∀ w : Word, w.extractLsb' 12 4 = 0b1100#4 → w.extractLsb' 6 3 = 7#3 → decodeWord w = .ret) ∧
    (∀ base : Reg, base ≠ 7#3 →
      DecodesTo (.jmp base) 6#5 0b1100#4 0#3 base 0#3 0#3 0#16 0#8 (chars ['J', 'M', 'P', ' '] ++ regText base)) ∧
    DecodesTo .ret 7#5 0b1100#4 0#3 7#3 0#3 0#3 0#16 0#8 (chars ['R', 'E', 'T'])

/-- JSR and JSRR are told apart by bit 11, decoded, reported and printed (R156, R158). -/
def Obligations.JsrAndJsrrDecode : Prop :=
    (∀ w : Word, w.extractLsb' 12 4 = 0b0100#4 → w.getLsbD 11 = true → decodeWord w = .jsr (sext (w.extractLsb' 0 11))) ∧
    (∀ w : Word, w.extractLsb' 12 4 = 0b0100#4 → w.getLsbD 11 = false → decodeWord w = .jsrr (w.extractLsb' 6 3)) ∧
    (∀ off11 : BitVec 11,
      DecodesTo (.jsr (sext off11)) 8#5 0b0100#4 0#3 0#3 0#3 0#3 (off11.signExtend 16) 0#8
        (chars ['J', 'S', 'R', ' '] ++ immText (sext off11))) ∧
    (∀ base : Reg,
      DecodesTo (.jsrr base) 9#5 0b0100#4 0#3 base 0#3 0#3 0#16 0#8 (chars ['J', 'S', 'R', 'R', ' '] ++ regText base))

/-- RTI is decoded from every word of opcode 1000, with no operand and no privilege check (R160). -/
def Obligations.RtiDecodes : Prop :=
    (∀ w : Word, w.extractLsb' 12 4 = 0b1000#4 → decodeWord w = .rti) ∧
    DecodesTo .rti 15#5 0b1000#4 0#3 0#3 0#3 0#3 0#16 0#8 (chars ['R', 'T', 'I'])

/-- TRAP is decoded with its unsigned vector on vec only (R162). -/
def Obligations.TrapDecodes : Prop :=
    (∀ w : Word, w.extractLsb' 12 4 = 0b1111#4 → decodeWord w = .trap (w.extractLsb' 0 8)) ∧
    (∀ vec8 : BitVec 8,
      DecodesTo (.trap vec8) 19#5 0b1111#4 0#3 0#3 0#3 0#3 0#16 vec8
        (chars ['T', 'R', 'A', 'P', ' ', 'x'] ++ [hexCode (vec8.extractLsb' 4 4).toNat, hexCode (vec8.extractLsb' 0 4).toNat])) ∧
    (∀ d : Nat, d < 10 → (hexCode d).toNat = 0x30 + d) ∧
    (∀ d : Nat, d < 6 → (hexCode (10 + d)).toNat = 0x41 + d)

/-- LD, LDI and LEA are decoded, reported and printed as the rules give (R180, R182, R186). -/
def Obligations.LoadsDecode : Prop :=
    (∀ w : Word, w.extractLsb' 12 4 = 0b0010#4 → decodeWord w = .ld (w.extractLsb' 9 3) (sext (w.extractLsb' 0 9))) ∧
    (∀ w : Word, w.extractLsb' 12 4 = 0b1010#4 → decodeWord w = .ldi (w.extractLsb' 9 3) (sext (w.extractLsb' 0 9))) ∧
    (∀ w : Word, w.extractLsb' 12 4 = 0b1110#4 → decodeWord w = .lea (w.extractLsb' 9 3) (sext (w.extractLsb' 0 9))) ∧
    (∀ (dr : Reg) (off9 : BitVec 9),
      DecodesTo (.ld dr (sext off9)) 10#5 0b0010#4 dr 0#3 0#3 0#3 (off9.signExtend 16) 0#8
        (chars ['L', 'D', ' '] ++ comma (regText dr) (immText (sext off9)))) ∧
    (∀ (dr : Reg) (off9 : BitVec 9),
      DecodesTo (.ldi dr (sext off9)) 11#5 0b1010#4 dr 0#3 0#3 0#3 (off9.signExtend 16) 0#8
        (chars ['L', 'D', 'I', ' '] ++ comma (regText dr) (immText (sext off9)))) ∧
    (∀ (dr : Reg) (off9 : BitVec 9),
      DecodesTo (.lea dr (sext off9)) 13#5 0b1110#4 dr 0#3 0#3 0#3 (off9.signExtend 16) 0#8
        (chars ['L', 'E', 'A', ' '] ++ comma (regText dr) (immText (sext off9))))

/-- ST and STI are decoded, reported and printed as the rules give (R188, R190). -/
def Obligations.StoresDecode : Prop :=
    (∀ w : Word, w.extractLsb' 12 4 = 0b0011#4 → decodeWord w = .st (w.extractLsb' 9 3) (sext (w.extractLsb' 0 9))) ∧
    (∀ w : Word, w.extractLsb' 12 4 = 0b1011#4 → decodeWord w = .sti (w.extractLsb' 9 3) (sext (w.extractLsb' 0 9))) ∧
    (∀ (sr : Reg) (off9 : BitVec 9),
      DecodesTo (.st sr (sext off9)) 16#5 0b0011#4 sr 0#3 0#3 0#3 (off9.signExtend 16) 0#8
        (chars ['S', 'T', ' '] ++ comma (regText sr) (immText (sext off9)))) ∧
    (∀ (sr : Reg) (off9 : BitVec 9),
      DecodesTo (.sti sr (sext off9)) 17#5 0b1011#4 sr 0#3 0#3 0#3 (off9.signExtend 16) 0#8
        (chars ['S', 'T', 'I', ' '] ++ comma (regText sr) (immText (sext off9))))

/-- LDR and STR are decoded, reported and printed as the rules give (R184, R192). -/
def Obligations.LdrAndStrDecode : Prop :=
    (∀ w : Word, w.extractLsb' 12 4 = 0b0110#4 → decodeWord w = .ldr (w.extractLsb' 9 3) (w.extractLsb' 6 3) (sext (w.extractLsb' 0 6))) ∧
    (∀ w : Word, w.extractLsb' 12 4 = 0b0111#4 → decodeWord w = .str (w.extractLsb' 9 3) (w.extractLsb' 6 3) (sext (w.extractLsb' 0 6))) ∧
    (∀ (dr base : Reg) (off6 : BitVec 6),
      DecodesTo (.ldr dr base (sext off6)) 12#5 0b0110#4 dr base 0#3 0#3 (off6.signExtend 16) 0#8
        (chars ['L', 'D', 'R', ' '] ++ comma (regText dr) (comma (regText base) (immText (sext off6))))) ∧
    (∀ (sr base : Reg) (off6 : BitVec 6),
      DecodesTo (.str sr base (sext off6)) 18#5 0b0111#4 sr base 0#3 0#3 (off6.signExtend 16) 0#8
        (chars ['S', 'T', 'R', ' '] ++ comma (regText sr) (comma (regText base) (immText (sext off6)))))

/-- A word of opcode 1101, and no other, fails with UnknownOpcode on the decoder's ports (R107). -/
def Obligations.ReservedOpcodeIsUnknownOpcode : Prop :=
    (∀ w : Word, (codecDecodeWord w = .error .unknownOpcode ↔ w.extractLsb' 12 4 = 0b1101#4)) ∧
    (∀ (w : Word) (f : DecFailure), codecDecodeWord w = .error f → f = .unknownOpcode) ∧
    (∀ w : Word, w.extractLsb' 12 4 = 0b1101#4 → decodeWord w = .illegal) ∧
    (∀ s : State, s.port = .decWord →
      exec .illegal s = .next { s with decWord := { word := s.decWord.word, ok := false, err := 3#2, kind := 0#5,
                                                    opcode := 0b1101#4, ra := 0#3, rb := 0#3, rc := 0#3,
                                                    nzp := 0#3, imm := 0#16, vec := 0#8 } })

/-- The reserved row on the other groups: UnknownOpcode as text, no word (the encoder groups' answer is the model's
choice, log entry 10) (44_text_decode.md R214, 40_codec_operations.md R108, 30_encoding.md R68). -/
def Obligations.ReservedOpcodeOnTheOtherGroups : Prop :=
    ∀ s : State,
    (s.port = .decText →
      exec .illegal s = .next { s with decText := { textIn := s.decText.textIn, ok := false, err := 3#2, textOut := [] } }) ∧
    (s.port = .encFields →
      exec .illegal s = .next { s with encFields := { s.encFields with word := 0#16, ok := false } }) ∧
    (s.port = .encText →
      exec .illegal s = .next { s with encText := { textIn := s.encText.textIn, ok := false, err := 2#3, word := 0#16,
                                                    bitsOut := [] } })

/-- ADD: both forms are assembled, and their lines read, as the rules give (R132, R133). -/
def Obligations.AddEncodes : Prop :=
    (∀ dr sr1 sr2 : Reg,
      AssemblesTo (.addR dr sr1 sr2) (0x1000#16 ||| dr.setWidth 16 <<< 9 ||| sr1.setWidth 16 <<< 6 ||| sr2.setWidth 16)) ∧
    (∀ (dr sr1 : Reg) (imm5 : Int),
      AssemblesTo (.addI dr sr1 imm5)
        (0x1000#16 ||| dr.setWidth 16 <<< 9 ||| sr1.setWidth 16 <<< 6 ||| 1#16 <<< 5 ||| (trunc 5 imm5).setWidth 16)) ∧
    (∀ (ra rb rc : Reg) (nzp : BitVec 3) (imm : NativeWord) (vec : BitVec 8),
      codecEncodeFields 1#5 ra rb rc nzp imm vec = some (0x1000#16 ||| ra.setWidth 16 <<< 9 ||| rb.setWidth 16 <<< 6 ||| rc.setWidth 16)) ∧
    (∀ (ra rb rc : Reg) (nzp : BitVec 3) (imm : NativeWord) (vec : BitVec 8),
      codecEncodeFields 2#5 ra rb rc nzp imm vec = some (0x1000#16 ||| ra.setWidth 16 <<< 9 ||| rb.setWidth 16 <<< 6 ||| 1#16 <<< 5 ||| (imm.setWidth 5).setWidth 16)) ∧
    (∀ (line t1 t2 t3 : Text) (rest : List Text), tokens line = chars ['A', 'D', 'D'] :: t1 :: t2 :: t3 :: rest →
      codecEncodeText line =
        if t3.take 1 = chars ['R'] then do
          let dr ← regTok t1
          let sr1 ← regTok t2
          let sr2 ← regTok t3
          return 0x1000#16 ||| dr.setWidth 16 <<< 9 ||| sr1.setWidth 16 <<< 6 ||| sr2.setWidth 16
        else do
          let dr ← regTok t1
          let sr1 ← regTok t2
          let f ← immTok 5 t3
          return 0x1000#16 ||| dr.setWidth 16 <<< 9 ||| sr1.setWidth 16 <<< 6 ||| 1#16 <<< 5 ||| f.setWidth 16) ∧
    (∀ (line : Text) (ops : List Text), tokens line = chars ['A', 'D', 'D'] :: ops → ops.length < 3 →
      codecEncodeText line = .error .missingOperand)

/-- AND: both forms are assembled, and their lines read, as the rules give (R136, R137). -/
def Obligations.AndEncodes : Prop :=
    (∀ dr sr1 sr2 : Reg,
      AssemblesTo (.andR dr sr1 sr2) (0x5000#16 ||| dr.setWidth 16 <<< 9 ||| sr1.setWidth 16 <<< 6 ||| sr2.setWidth 16)) ∧
    (∀ (dr sr1 : Reg) (imm5 : Int),
      AssemblesTo (.andI dr sr1 imm5)
        (0x5000#16 ||| dr.setWidth 16 <<< 9 ||| sr1.setWidth 16 <<< 6 ||| 1#16 <<< 5 ||| (trunc 5 imm5).setWidth 16)) ∧
    (∀ (ra rb rc : Reg) (nzp : BitVec 3) (imm : NativeWord) (vec : BitVec 8),
      codecEncodeFields 3#5 ra rb rc nzp imm vec = some (0x5000#16 ||| ra.setWidth 16 <<< 9 ||| rb.setWidth 16 <<< 6 ||| rc.setWidth 16)) ∧
    (∀ (ra rb rc : Reg) (nzp : BitVec 3) (imm : NativeWord) (vec : BitVec 8),
      codecEncodeFields 4#5 ra rb rc nzp imm vec = some (0x5000#16 ||| ra.setWidth 16 <<< 9 ||| rb.setWidth 16 <<< 6 ||| 1#16 <<< 5 ||| (imm.setWidth 5).setWidth 16)) ∧
    (∀ (line t1 t2 t3 : Text) (rest : List Text), tokens line = chars ['A', 'N', 'D'] :: t1 :: t2 :: t3 :: rest →
      codecEncodeText line =
        if t3.take 1 = chars ['R'] then do
          let dr ← regTok t1
          let sr1 ← regTok t2
          let sr2 ← regTok t3
          return 0x5000#16 ||| dr.setWidth 16 <<< 9 ||| sr1.setWidth 16 <<< 6 ||| sr2.setWidth 16
        else do
          let dr ← regTok t1
          let sr1 ← regTok t2
          let f ← immTok 5 t3
          return 0x5000#16 ||| dr.setWidth 16 <<< 9 ||| sr1.setWidth 16 <<< 6 ||| 1#16 <<< 5 ||| f.setWidth 16) ∧
    (∀ (line : Text) (ops : List Text), tokens line = chars ['A', 'N', 'D'] :: ops → ops.length < 3 →
      codecEncodeText line = .error .missingOperand)

/-- NOT is assembled with NOT_FILL = 111111 (R7's value) and its line read as R139 gives (R139). -/
def Obligations.NotEncodes : Prop :=
    (∀ dr sr : Reg, AssemblesTo (.notR dr sr) (0x9000#16 ||| dr.setWidth 16 <<< 9 ||| sr.setWidth 16 <<< 6 ||| 0b111111#16)) ∧
    (∀ (fill : BitVec 6) (dr sr : Reg),
      encodeWith fill (.notR dr sr) = some (0x9000#16 ||| dr.setWidth 16 <<< 9 ||| sr.setWidth 16 <<< 6 ||| fill.setWidth 16)) ∧
    (∀ (ra rb rc : Reg) (nzp : BitVec 3) (imm : NativeWord) (vec : BitVec 8),
      codecEncodeFields 14#5 ra rb rc nzp imm vec = some (0x9000#16 ||| ra.setWidth 16 <<< 9 ||| rb.setWidth 16 <<< 6 ||| 0b111111#16)) ∧
    (∀ (line t1 t2 : Text) (rest : List Text), tokens line = chars ['N', 'O', 'T'] :: t1 :: t2 :: rest →
      codecEncodeText line = do
        let dr ← regTok t1
        let sr ← regTok t2
        return 0x9000#16 ||| dr.setWidth 16 <<< 9 ||| sr.setWidth 16 <<< 6 ||| 0b111111#16) ∧
    (∀ (line : Text) (ops : List Text), tokens line = chars ['N', 'O', 'T'] :: ops → ops.length < 2 →
      codecEncodeText line = .error .missingOperand)

/-- BR: the eight rows are assembled, and lines with the accepted suffixes read, as R151 and R236 give (R151, R236).
-/
def Obligations.BrEncodes : Prop :=
    (∀ off9 : Int,
      AssemblesTo (.brNone off9) (0x0000#16 ||| 0b000#16 <<< 9 ||| (trunc 9 off9).setWidth 16) ∧
      AssemblesTo (.brP off9) (0x0000#16 ||| 0b001#16 <<< 9 ||| (trunc 9 off9).setWidth 16) ∧
      AssemblesTo (.brZ off9) (0x0000#16 ||| 0b010#16 <<< 9 ||| (trunc 9 off9).setWidth 16) ∧
      AssemblesTo (.brZP off9) (0x0000#16 ||| 0b011#16 <<< 9 ||| (trunc 9 off9).setWidth 16) ∧
      AssemblesTo (.brN off9) (0x0000#16 ||| 0b100#16 <<< 9 ||| (trunc 9 off9).setWidth 16) ∧
      AssemblesTo (.brNP off9) (0x0000#16 ||| 0b101#16 <<< 9 ||| (trunc 9 off9).setWidth 16) ∧
      AssemblesTo (.brNZ off9) (0x0000#16 ||| 0b110#16 <<< 9 ||| (trunc 9 off9).setWidth 16) ∧
      AssemblesTo (.brNZP off9) (0x0000#16 ||| 0b111#16 <<< 9 ||| (trunc 9 off9).setWidth 16)) ∧
    (∀ (ra rb rc : Reg) (nzp : BitVec 3) (imm : NativeWord) (vec : BitVec 8),
      codecEncodeFields 5#5 ra rb rc nzp imm vec = some (0x0000#16 ||| nzp.setWidth 16 <<< 9 ||| (imm.setWidth 9).setWidth 16)) ∧
    (∀ (suffix : Text) (nzp : BitVec 3),
      (suffix, nzp) ∈ [(chars ['N'], 0b100#3), (chars ['Z'], 0b010#3), (chars ['P'], 0b001#3), (chars ['N', 'Z'], 0b110#3),
        (chars ['N', 'P'], 0b101#3), (chars ['Z', 'P'], 0b011#3), (chars ['N', 'Z', 'P'], 0b111#3), ([], 0b111#3)] →
      (∀ (line t1 : Text) (rest : List Text), tokens line = (chars ['B', 'R'] ++ suffix) :: t1 :: rest →
        codecEncodeText line = do
          let f ← immTok 9 t1
          return 0x0000#16 ||| nzp.setWidth 16 <<< 9 ||| f.setWidth 16) ∧
      (∀ line : Text, tokens line = [chars ['B', 'R'] ++ suffix] → codecEncodeText line = .error .missingOperand)) ∧
    (∀ (suffix line : Text) (ops : List Text),
      suffix ∉ [chars ['N'], chars ['Z'], chars ['P'], chars ['N', 'Z'],
        chars ['N', 'P'], chars ['Z', 'P'], chars ['N', 'Z', 'P'], []] →
      tokens line = (chars ['B', 'R'] ++ suffix) :: ops → codecEncodeText line = .error .unknownMnemonic)

/-- JMP and RET are assembled and their lines read; JMP R7 is the word of RET (R153, R155). -/
def Obligations.JmpAndRetEncode : Prop :=
    (∀ base : Reg, AssemblesTo (.jmp base) (0xC000#16 ||| base.setWidth 16 <<< 6)) ∧
    AssemblesTo .ret 0xC1C0#16 ∧
    (∀ (ra rb rc : Reg) (nzp : BitVec 3) (imm : NativeWord) (vec : BitVec 8),
      codecEncodeFields 6#5 ra rb rc nzp imm vec = some (0xC000#16 ||| rb.setWidth 16 <<< 6)) ∧
    (∀ (ra rb rc : Reg) (nzp : BitVec 3) (imm : NativeWord) (vec : BitVec 8),
      codecEncodeFields 7#5 ra rb rc nzp imm vec = some (0xC1C0#16)) ∧
    (∀ (line t1 : Text) (rest : List Text), tokens line = chars ['J', 'M', 'P'] :: t1 :: rest →
      codecEncodeText line = do
        let base ← regTok t1
        return 0xC000#16 ||| base.setWidth 16 <<< 6) ∧
    (∀ (line : Text) (ops : List Text), tokens line = chars ['J', 'M', 'P'] :: ops → ops.length < 1 →
      codecEncodeText line = .error .missingOperand) ∧
    (∀ (line : Text) (ops : List Text), tokens line = chars ['R', 'E', 'T'] :: ops → codecEncodeText line = .ok 0xC1C0#16) ∧
    (encode (.jmp 7#3) = some 0xC1C0#16 ∧ decodeWord 0xC1C0#16 = .ret)

/-- JSR and JSRR are assembled and their lines read as the rules give (R157, R159). -/
def Obligations.JsrAndJsrrEncode : Prop :=
    (∀ off11 : Int, AssemblesTo (.jsr off11) (0x4000#16 ||| 1#16 <<< 11 ||| (trunc 11 off11).setWidth 16)) ∧
    (∀ base : Reg, AssemblesTo (.jsrr base) (0x4000#16 ||| base.setWidth 16 <<< 6)) ∧
    (∀ (ra rb rc : Reg) (nzp : BitVec 3) (imm : NativeWord) (vec : BitVec 8),
      codecEncodeFields 8#5 ra rb rc nzp imm vec = some (0x4000#16 ||| 1#16 <<< 11 ||| (imm.setWidth 11).setWidth 16)) ∧
    (∀ (ra rb rc : Reg) (nzp : BitVec 3) (imm : NativeWord) (vec : BitVec 8),
      codecEncodeFields 9#5 ra rb rc nzp imm vec = some (0x4000#16 ||| rb.setWidth 16 <<< 6)) ∧
    (∀ (line t1 : Text) (rest : List Text), tokens line = chars ['J', 'S', 'R'] :: t1 :: rest →
      codecEncodeText line = do
        let f ← immTok 11 t1
        return 0x4000#16 ||| 1#16 <<< 11 ||| f.setWidth 16) ∧
    (∀ (line : Text) (ops : List Text), tokens line = chars ['J', 'S', 'R'] :: ops → ops.length < 1 →
      codecEncodeText line = .error .missingOperand) ∧
    (∀ (line t1 : Text) (rest : List Text), tokens line = chars ['J', 'S', 'R', 'R'] :: t1 :: rest →
      codecEncodeText line = do
        let base ← regTok t1
        return 0x4000#16 ||| base.setWidth 16 <<< 6) ∧
    (∀ (line : Text) (ops : List Text), tokens line = chars ['J', 'S', 'R', 'R'] :: ops → ops.length < 1 →
      codecEncodeText line = .error .missingOperand)

/-- RTI is assembled as the fixed word 0x8000, and its line read whatever follows (R161). -/
def Obligations.RtiEncodes : Prop :=
    AssemblesTo .rti 0x8000#16 ∧
    (∀ (ra rb rc : Reg) (nzp : BitVec 3) (imm : NativeWord) (vec : BitVec 8),
      codecEncodeFields 15#5 ra rb rc nzp imm vec = some (0x8000#16)) ∧
    (∀ (line : Text) (ops : List Text), tokens line = chars ['R', 'T', 'I'] :: ops → codecEncodeText line = .ok 0x8000#16)

/-- TRAP is assembled and its line read as R163 gives (R163). -/
def Obligations.TrapEncodes : Prop :=
    (∀ vec8 : BitVec 8, AssemblesTo (.trap vec8) (0xF000#16 ||| vec8.setWidth 16)) ∧
    (∀ (ra rb rc : Reg) (nzp : BitVec 3) (imm : NativeWord) (vec : BitVec 8),
      codecEncodeFields 19#5 ra rb rc nzp imm vec = some (0xF000#16 ||| vec.setWidth 16)) ∧
    (∀ (line t1 : Text) (rest : List Text), tokens line = chars ['T', 'R', 'A', 'P'] :: t1 :: rest →
      codecEncodeText line = do
        let f ← immTok 8 t1
        return 0xF000#16 ||| f.setWidth 16) ∧
    (∀ (line : Text) (ops : List Text), tokens line = chars ['T', 'R', 'A', 'P'] :: ops → ops.length < 1 →
      codecEncodeText line = .error .missingOperand)

/-- LD, LDI and LEA are assembled and their lines read as the rules give (R181, R183, R187). -/
def Obligations.LoadsEncode : Prop :=
    (∀ (dr : Reg) (off9 : Int),
      AssemblesTo (.ld dr off9) (0x2000#16 ||| dr.setWidth 16 <<< 9 ||| (trunc 9 off9).setWidth 16)) ∧
    (∀ (ra rb rc : Reg) (nzp : BitVec 3) (imm : NativeWord) (vec : BitVec 8),
      codecEncodeFields 10#5 ra rb rc nzp imm vec = some (0x2000#16 ||| ra.setWidth 16 <<< 9 ||| (imm.setWidth 9).setWidth 16)) ∧
    (∀ (line t1 t2 : Text) (rest : List Text), tokens line = chars ['L', 'D'] :: t1 :: t2 :: rest →
      codecEncodeText line = do
        let r ← regTok t1
        let f ← immTok 9 t2
        return 0x2000#16 ||| r.setWidth 16 <<< 9 ||| f.setWidth 16) ∧
    (∀ (line : Text) (ops : List Text), tokens line = chars ['L', 'D'] :: ops → ops.length < 2 →
      codecEncodeText line = .error .missingOperand) ∧
    (∀ (dr : Reg) (off9 : Int),
      AssemblesTo (.ldi dr off9) (0xA000#16 ||| dr.setWidth 16 <<< 9 ||| (trunc 9 off9).setWidth 16)) ∧
    (∀ (ra rb rc : Reg) (nzp : BitVec 3) (imm : NativeWord) (vec : BitVec 8),
      codecEncodeFields 11#5 ra rb rc nzp imm vec = some (0xA000#16 ||| ra.setWidth 16 <<< 9 ||| (imm.setWidth 9).setWidth 16)) ∧
    (∀ (line t1 t2 : Text) (rest : List Text), tokens line = chars ['L', 'D', 'I'] :: t1 :: t2 :: rest →
      codecEncodeText line = do
        let r ← regTok t1
        let f ← immTok 9 t2
        return 0xA000#16 ||| r.setWidth 16 <<< 9 ||| f.setWidth 16) ∧
    (∀ (line : Text) (ops : List Text), tokens line = chars ['L', 'D', 'I'] :: ops → ops.length < 2 →
      codecEncodeText line = .error .missingOperand) ∧
    (∀ (dr : Reg) (off9 : Int),
      AssemblesTo (.lea dr off9) (0xE000#16 ||| dr.setWidth 16 <<< 9 ||| (trunc 9 off9).setWidth 16)) ∧
    (∀ (ra rb rc : Reg) (nzp : BitVec 3) (imm : NativeWord) (vec : BitVec 8),
      codecEncodeFields 13#5 ra rb rc nzp imm vec = some (0xE000#16 ||| ra.setWidth 16 <<< 9 ||| (imm.setWidth 9).setWidth 16)) ∧
    (∀ (line t1 t2 : Text) (rest : List Text), tokens line = chars ['L', 'E', 'A'] :: t1 :: t2 :: rest →
      codecEncodeText line = do
        let r ← regTok t1
        let f ← immTok 9 t2
        return 0xE000#16 ||| r.setWidth 16 <<< 9 ||| f.setWidth 16) ∧
    (∀ (line : Text) (ops : List Text), tokens line = chars ['L', 'E', 'A'] :: ops → ops.length < 2 →
      codecEncodeText line = .error .missingOperand)

/-- ST and STI are assembled and their lines read as the rules give (R189, R191). -/
def Obligations.StoresEncode : Prop :=
    (∀ (sr : Reg) (off9 : Int),
      AssemblesTo (.st sr off9) (0x3000#16 ||| sr.setWidth 16 <<< 9 ||| (trunc 9 off9).setWidth 16)) ∧
    (∀ (ra rb rc : Reg) (nzp : BitVec 3) (imm : NativeWord) (vec : BitVec 8),
      codecEncodeFields 16#5 ra rb rc nzp imm vec = some (0x3000#16 ||| ra.setWidth 16 <<< 9 ||| (imm.setWidth 9).setWidth 16)) ∧
    (∀ (line t1 t2 : Text) (rest : List Text), tokens line = chars ['S', 'T'] :: t1 :: t2 :: rest →
      codecEncodeText line = do
        let r ← regTok t1
        let f ← immTok 9 t2
        return 0x3000#16 ||| r.setWidth 16 <<< 9 ||| f.setWidth 16) ∧
    (∀ (line : Text) (ops : List Text), tokens line = chars ['S', 'T'] :: ops → ops.length < 2 →
      codecEncodeText line = .error .missingOperand) ∧
    (∀ (sr : Reg) (off9 : Int),
      AssemblesTo (.sti sr off9) (0xB000#16 ||| sr.setWidth 16 <<< 9 ||| (trunc 9 off9).setWidth 16)) ∧
    (∀ (ra rb rc : Reg) (nzp : BitVec 3) (imm : NativeWord) (vec : BitVec 8),
      codecEncodeFields 17#5 ra rb rc nzp imm vec = some (0xB000#16 ||| ra.setWidth 16 <<< 9 ||| (imm.setWidth 9).setWidth 16)) ∧
    (∀ (line t1 t2 : Text) (rest : List Text), tokens line = chars ['S', 'T', 'I'] :: t1 :: t2 :: rest →
      codecEncodeText line = do
        let r ← regTok t1
        let f ← immTok 9 t2
        return 0xB000#16 ||| r.setWidth 16 <<< 9 ||| f.setWidth 16) ∧
    (∀ (line : Text) (ops : List Text), tokens line = chars ['S', 'T', 'I'] :: ops → ops.length < 2 →
      codecEncodeText line = .error .missingOperand)

/-- LDR and STR are assembled and their lines read as the rules give (R185, R193). -/
def Obligations.LdrAndStrEncode : Prop :=
    (∀ (dr base : Reg) (off6 : Int),
      AssemblesTo (.ldr dr base off6)
        (0x6000#16 ||| dr.setWidth 16 <<< 9 ||| base.setWidth 16 <<< 6 ||| (trunc 6 off6).setWidth 16)) ∧
    (∀ (ra rb rc : Reg) (nzp : BitVec 3) (imm : NativeWord) (vec : BitVec 8),
      codecEncodeFields 12#5 ra rb rc nzp imm vec = some (0x6000#16 ||| ra.setWidth 16 <<< 9 ||| rb.setWidth 16 <<< 6 ||| (imm.setWidth 6).setWidth 16)) ∧
    (∀ (line t1 t2 t3 : Text) (rest : List Text), tokens line = chars ['L', 'D', 'R'] :: t1 :: t2 :: t3 :: rest →
      codecEncodeText line = do
        let r ← regTok t1
        let base ← regTok t2
        let f ← immTok 6 t3
        return 0x6000#16 ||| r.setWidth 16 <<< 9 ||| base.setWidth 16 <<< 6 ||| f.setWidth 16) ∧
    (∀ (line : Text) (ops : List Text), tokens line = chars ['L', 'D', 'R'] :: ops → ops.length < 3 →
      codecEncodeText line = .error .missingOperand) ∧
    (∀ (sr base : Reg) (off6 : Int),
      AssemblesTo (.str sr base off6)
        (0x7000#16 ||| sr.setWidth 16 <<< 9 ||| base.setWidth 16 <<< 6 ||| (trunc 6 off6).setWidth 16)) ∧
    (∀ (ra rb rc : Reg) (nzp : BitVec 3) (imm : NativeWord) (vec : BitVec 8),
      codecEncodeFields 18#5 ra rb rc nzp imm vec = some (0x7000#16 ||| ra.setWidth 16 <<< 9 ||| rb.setWidth 16 <<< 6 ||| (imm.setWidth 6).setWidth 16)) ∧
    (∀ (line t1 t2 t3 : Text) (rest : List Text), tokens line = chars ['S', 'T', 'R'] :: t1 :: t2 :: t3 :: rest →
      codecEncodeText line = do
        let r ← regTok t1
        let base ← regTok t2
        let f ← immTok 6 t3
        return 0x7000#16 ||| r.setWidth 16 <<< 9 ||| base.setWidth 16 <<< 6 ||| f.setWidth 16) ∧
    (∀ (line : Text) (ops : List Text), tokens line = chars ['S', 'T', 'R'] :: ops → ops.length < 3 →
      codecEncodeText line = .error .missingOperand)

/-- The decoder strips one leading 0b, then the four whitespace codes, and nothing else (R211). -/
def Obligations.DecoderInputIsNormalised : Prop :=
    (∀ rest : Text, normalise (chars ['0', 'b'] ++ rest) =
      rest.filter fun x => decide (x ≠ 0x20#8 ∧ x ≠ 0x09#8 ∧ x ≠ 0x0A#8 ∧ x ≠ 0x0D#8)) ∧
    (∀ raw : Text, (∀ rest : Text, raw ≠ chars ['0', 'b'] ++ rest) → normalise raw =
      raw.filter fun x => decide (x ≠ 0x20#8 ∧ x ≠ 0x09#8 ∧ x ≠ 0x0A#8 ∧ x ≠ 0x0D#8))

/-- DECODE_TEXT: width, then digits, then opcode, then the canonical text of the word (R210, R212, R213, R274). -/
def Obligations.DecodeTextOutcome : Prop :=
    ∀ raw : Text,
    ((normalise raw).length ≠ 16 → codecDecodeText raw = .error .malformedWidth) ∧
    ((normalise raw).length = 16 → (∃ x ∈ normalise raw, x ≠ 0x30#8 ∧ x ≠ 0x31#8) →
      codecDecodeText raw = .error .malformedDigits) ∧
    ((normalise raw).length = 16 → (∀ x ∈ normalise raw, x = 0x30#8 ∨ x = 0x31#8) →
      ∀ w : Word, (∀ k < 16, (w.getLsbD (15 - k) = true ↔ (normalise raw)[k]? = some 0x31#8)) →
        codecDecodeText raw =
          if w.extractLsb' 12 4 = 0b1101#4 then .error .unknownOpcode else .ok (render (decodeWord w)))

/-- Registers, signed immediates and the TRAP vector are printed as the rules give (R216, R217, R218). -/
def Obligations.PrintedOperands : Prop :=
    (∀ k : Reg, regText k = [0x52#8, BitVec.ofNat 8 (0x30 + k.toNat)]) ∧
    (∀ n : Nat, immText (n : Int) = chars ['#'] ++ natText n) ∧
    (∀ n : Nat, 0 < n → immText (-(n : Int)) = chars ['#', '-'] ++ natText n) ∧
    natText 0 = chars ['0'] ∧
    (∀ n : Nat, 0 < n → ∃ ds : List Nat, (∀ d ∈ ds, d < 10) ∧ ds.head? ≠ some 0 ∧
      ds.foldl (fun acc d => acc * 10 + d) 0 = n ∧ natText n = ds.map fun d => BitVec.ofNat 8 (0x30 + d)) ∧
    (∀ v : BitVec 8, hex2 v = [hexCode (v.extractLsb' 4 4).toNat, hexCode (v.extractLsb' 0 4).toNat]) ∧
    (∀ d : Nat, d < 10 → (hexCode d).toNat = 0x30 + d) ∧
    (∀ d : Nat, d < 6 → (hexCode (10 + d)).toNat = 0x41 + d)

/-- Canonical text has 3 to 16 characters, all in 0x20 to 0x7A (R221). -/
def Obligations.CanonicalTextIsShortAscii : Prop :=
    (∀ i : Instr, i.wellFormed = true →
      3 ≤ (render i).length ∧ (render i).length ≤ 16 ∧ ∀ x ∈ render i, 0x20 ≤ x.toNat ∧ x.toNat ≤ 0x7A) ∧
    (render .ret).length = 3 ∧ (render (.addI 1#3 2#3 (-16))).length = 16

/-- Tokens are the maximal runs between whitespace and commas, upper-cased (R231, R232, R233). -/
def Obligations.TokensOfALine : Prop :=
    tokens [] = [] ∧
    (∀ (a b : Text) (x : Byte), x ∈ separators → tokens (a ++ x :: b) = tokens a ++ tokens b) ∧
    (∀ u : Text, u ≠ [] → (∀ x ∈ u, x ∉ separators) →
      tokens u = [u.map fun x =>
        if 0x61 ≤ x.toNat ∧ x.toNat ≤ 0x7A then BitVec.ofNat 8 (x.toNat - 0x20) else x])

/-- A register token is R and decimal digits of value at most 7; anything else is InvalidRegister (R239). -/
def Obligations.RegisterTokenGrammar : Prop :=
    (∀ (t : Text) (k : Reg), regTok t = .ok k ↔
      ∃ ds : List Nat, ds ≠ [] ∧ (∀ d ∈ ds, d < 10) ∧ t = 0x52#8 :: ds.map (fun d => BitVec.ofNat 8 (0x30 + d)) ∧
        ds.foldl (fun acc d => acc * 10 + d) 0 = k.toNat) ∧
    (∀ (t : Text) (f : EncFailure), regTok t = .error f → f = .invalidRegister)

/-- An immediate token: # and decimal, X and hexadecimal, or bare decimal; any magnitude, cut to its field (R240,
R241, R242, R243). -/
def Obligations.ImmediateTokenGrammar : Prop :=
    (∀ (n : Nat) (s : Text), immTok n (0x23#8 :: s) =
      match decLit s with | some a => .ok (BitVec.ofInt n a) | none => .error .invalidImmediate) ∧
    (∀ (n : Nat) (s : Text), immTok n (0x58#8 :: s) =
      match hexLit s with | some m => .ok (BitVec.ofNat n m) | none => .error .invalidImmediate) ∧
    (∀ (n : Nat) (x : Byte) (s : Text), x ≠ 0x23#8 → x ≠ 0x58#8 → immTok n (x :: s) =
      match decLit (x :: s) with | some a => .ok (BitVec.ofInt n a) | none => .error .invalidImmediate) ∧
    (∀ (s : Text) (a : Int), decLit s = some a ↔
      ∃ ds : List Nat, ds ≠ [] ∧ (∀ d ∈ ds, d < 10) ∧
        ((s = ds.map (fun d => BitVec.ofNat 8 (0x30 + d)) ∧ a = (ds.foldl (fun acc d => acc * 10 + d) 0 : Nat)) ∨
         (s = 0x2D#8 :: ds.map (fun d => BitVec.ofNat 8 (0x30 + d)) ∧
           a = -((ds.foldl (fun acc d => acc * 10 + d) 0 : Nat) : Int)))) ∧
    (∀ (s : Text) (m : Nat), hexLit s = some m ↔
      ∃ ds : List Nat, ds ≠ [] ∧ (∀ d ∈ ds, d < 16) ∧
        s = ds.map (fun d => BitVec.ofNat 8 (if d < 10 then 0x30 + d else 0x37 + d)) ∧
        m = ds.foldl (fun acc d => acc * 16 + d) 0)

/-- ENCODE_TEXT: empty, then unknown mnemonic, then missing operand, then the operands (45_text_encode.md R234, R235,
R236, R237, 60_exceptions.md R275). -/
def Obligations.EncoderFailurePriority : Prop :=
    ∀ line : Text,
    (codecEncodeText line = .error .emptyInput ↔ tokens line = []) ∧
    (codecEncodeText line = .error .unknownMnemonic ↔
      ∃ (m : Text) (ops : List Text), tokens line = m :: ops ∧ ∀ n : Nat, (m, n) ∉ firstTokens) ∧
    (codecEncodeText line = .error .missingOperand ↔
      ∃ (m : Text) (ops : List Text) (n : Nat), tokens line = m :: ops ∧ (m, n) ∈ firstTokens ∧ ops.length + 1 < n)

/-- Tokens beyond the family's minimum do not change the outcome (R238). -/
def Obligations.ExtraTokensAreNotRead : Prop :=
    ∀ (line line' m : Text) (ops ops' : List Text) (n : Nat), (m, n) ∈ firstTokens →
    tokens line = m :: ops → tokens line' = m :: ops' → n ≤ ops.length + 1 → n ≤ ops'.length + 1 →
    ops.take (n - 1) = ops'.take (n - 1) → codecEncodeText line = codecEncodeText line'

/-- BIN16 writes bit 15 first; the decoder reads it back; what the encoder writes always decodes (45_text_encode.md
R245, 20_memory.md R41, 30_encoding.md R68). -/
def Obligations.Bin16IsReadBack : Prop :=
    (∀ w : Word, (bin16 w).length = 16 ∧
      ∀ k < 16, (bin16 w)[k]? = some (if w.getLsbD (15 - k) then 0x31#8 else 0x30#8)) ∧
    (∀ w : Word, readWord (bin16 w) = .ok w) ∧
    (∀ (line : Text) (w : Word), codecEncodeText line = .ok w → ∃ t : Text, codecDecodeText (bin16 w) = .ok t)

/-- The encoder's layouts (concatenation) and its OR-combination give the same word (30_encoding.md R64,
40_codec_operations.md R102). -/
def Obligations.LayoutsAgreeWithOrCombination : Prop :=
    ∀ (kind : BitVec 5) (ra rb rc : Reg) (nzp : BitVec 3) (imm : NativeWord) (vec : BitVec 8),
    codecEncodeFields kind ra rb rc nzp imm vec = (instrOfFields kind ra rb rc nzp imm vec).bind encode

/-- ENCODE_FIELDS succeeds exactly for kind codes 1 to 19 (R108). -/
def Obligations.UndefinedKindCodeGivesNoWord : Prop :=
    ∀ s : State, ∃ t : State, step s = .next t ∧
    ((1 ≤ s.encFields.kind.toNat ∧ s.encFields.kind.toNat ≤ 19) → t.encFields.ok = true) ∧
    (¬(1 ≤ s.encFields.kind.toNat ∧ s.encFields.kind.toNat ≤ 19) →
      t.encFields.ok = false ∧ t.encFields.word = 0#16)

/-- Decoding the encoding of a well-formed instruction gives it back, whatever NOT_FILL is (40_codec_operations.md
R109, 47_properties.md R323). -/
def Obligations.DecodeInvertsEncode : Prop :=
    (∀ (fill : BitVec 6) (i : Instr), i.wellFormed = true →
      ∃ w : Word, encodeWith fill i = some w ∧ decodeWord w = i) ∧
    (∀ fill : BitVec 6, encodeWith fill (.jmp 7#3) = some 0xC1C0#16 ∧ decodeWord 0xC1C0#16 = .ret)

/-- The word-layer round trips: E_F(D_W(w)) is w with its ignored bits filled; D_W(E_F(i)) = i (R109). -/
def Obligations.EncodeOfDecodeFillsIgnoredBits : Prop :=
    ∀ fill : BitVec 6,
    (∀ w : Word, w.extractLsb' 12 4 ≠ 0b1101#4 → encodeWith fill (decodeWord w) = some (canonF fill w)) ∧
    (∀ w v : Word, w.extractLsb' 12 4 ≠ 0b1101#4 → encodeWith fill (decodeWord w) = some v →
      decodeWord v = decodeWord w) ∧
    (encodeWith fill (.jmp 7#3) = some 0xC1C0#16 ∧ decodeWord 0xC1C0#16 = .ret)

/-- Two words decode alike exactly when they differ in ignored bits only (30_encoding.md R69, 47_properties.md R324).
-/
def Obligations.IgnoredBitsDoNotMatter : Prop :=
    ∀ w1 w2 : Word, decodeWord w1 = decodeWord w2 ↔
    ignoredBits w1 = ignoredBits w2 ∧ w1 &&& ~~~ignoredBits w1 = w2 &&& ~~~ignoredBits w2

/-- Exactly the 4096 words 0xD000 to 0xDFFF are illegal, and the encoder never produces one (R68). -/
def Obligations.IllegalEncodingsAreOneOpcode : Prop :=
    (∀ w : Word, (0xD000 ≤ w.toNat ∧ w.toNat ≤ 0xDFFF → codecDecodeWord w = .error .unknownOpcode) ∧
      (¬(0xD000 ≤ w.toNat ∧ w.toNat ≤ 0xDFFF) → ∃ r : Record, codecDecodeWord w = .ok r)) ∧
    (∀ (kind : BitVec 5) (ra rb rc : Reg) (nzp : BitVec 3) (imm : NativeWord) (vec : BitVec 8) (w : Word),
      codecEncodeFields kind ra rb rc nzp imm vec = some w → ¬(0xD000 ≤ w.toNat ∧ w.toNat ≤ 0xDFFF)) ∧
    (∀ (line : Text) (w : Word), codecEncodeText line = .ok w → ¬(0xD000 ≤ w.toNat ∧ w.toNat ≤ 0xDFFF))

/-- Every legal word decodes to an instruction whose operands are in R101's ranges (40_codec_operations.md R101). -/
def Obligations.DecodedInstructionsAreWellFormed : Prop :=
    ∀ w : Word, w.extractLsb' 12 4 ≠ 0b1101#4 → (decodeWord w).wellFormed = true

/-- An encoder uses exactly the low N bits of an immediate, and never fails on it (40_codec_operations.md R105,
30_encoding.md R65). -/
def Obligations.SilentTruncation : Prop :=
    ∀ (r b : Reg) (nzp : BitVec 3) (x y : Int),
    (encodeAddI r b x = encodeAddI r b y ↔ x % 32 = y % 32) ∧
    (encodeAndI r b x = encodeAndI r b y ↔ x % 32 = y % 32) ∧
    (encodeBr nzp x = encodeBr nzp y ↔ x % 512 = y % 512) ∧
    (encodeLd r x = encodeLd r y ↔ x % 512 = y % 512) ∧
    (encodeLdi r x = encodeLdi r y ↔ x % 512 = y % 512) ∧
    (encodeLea r x = encodeLea r y ↔ x % 512 = y % 512) ∧
    (encodeSt r x = encodeSt r y ↔ x % 512 = y % 512) ∧
    (encodeSti r x = encodeSti r y ↔ x % 512 = y % 512) ∧
    (encodeLdr r b x = encodeLdr r b y ↔ x % 64 = y % 64) ∧
    (encodeStr r b x = encodeStr r b y ↔ x % 64 = y % 64) ∧
    (encodeJsr x = encodeJsr y ↔ x % 2048 = y % 2048)

/-- The opcode table's match, mask and tie-break select the decoder's kind, for every word (30_encoding.md R67, R73).
-/
def Obligations.OpcodeTableIsTheDecoder : Prop :=
    ∀ w : Word, ∃ r ∈ opcodeTable, r.selects w ∧
    (∀ r' ∈ opcodeTable, r'.selects w → r' = r ∨ r'.weight < r.weight) ∧
    r.kind = kindOf (decodeWord w) ∧
    (r.kind ≠ .none → (render (decodeWord w)).takeWhile (fun x => x != 0x20#8) = r.mnemonic)

/-- Every legal word's printed text is accepted and encodes to its canonical word (47_properties.md R322,
44_text_decode.md R222). -/
def Obligations.WordToTextToWord : Prop :=
    ∀ w : Word, w.extractLsb' 12 4 ≠ 0b1101#4 →
    ∃ t : Text, codecDecodeText (bin16 w) = .ok t ∧ codecEncodeText t = .ok (canonT w)

/-- E_T(D_T(E_T(L))) = E_T(L): what a line encodes to survives a decode and re-encode (R249). -/
def Obligations.EncodedLineIsStable : Prop :=
    ∀ (line : Text) (w : Word), codecEncodeText line = .ok w →
    canonT w = w ∧ ∃ t : Text, codecDecodeText (bin16 w) = .ok t ∧ codecEncodeText t = .ok w

/-- Two decoded instructions print alike only if they are BR 000 and BR 111 with the same offset (47_properties.md
R324). -/
def Obligations.TextTellsInstructionsApart : Prop :=
    ∀ i j : Instr, i.wellFormed = true → j.wellFormed = true → i ≠ j →
    (render i = render j ↔
      ∃ off9 : Int, (i = .brNone off9 ∧ j = .brNZP off9) ∨ (i = .brNZP off9 ∧ j = .brNone off9))

/-- From any state a step leaves every output equal to the function of the present inputs, the inputs unchanged
(10_state.md R30, R32, 70_reset_and_hazards.md R304). -/
def Obligations.StepSettlesEveryOutput : Prop :=
    ∀ s t : State, step s = .next t → Settled t ∧ SameInputs s t

/-- A step changes nothing in a settled state (10_state.md R30, 70_reset_and_hazards.md R304). -/
def Obligations.SettledStateIsAFixpoint : Prop :=
    ∀ s : State, Settled s → step s = .next s

/-- The state after reset is settled (its inputs are the model's choice, log entry 2) (10_state.md R32,
70_reset_and_hazards.md R300). -/
def Obligations.ResetIsSettled : Prop :=
    Settled State.reset

/-- Totality: every evaluation of every input completes, with exactly one outcome (R328). -/
def Obligations.StepAlwaysCompletes : Prop :=
    (∀ s : State, ∃ t : State, step s = .next t ∧
      ((t.decWord.ok = true ∧ t.decWord.err = 0#2) ∨ (t.decWord.ok = false ∧ t.decWord.err = DecFailure.unknownOpcode.code)) ∧
      (t.encFields.ok = true ↔ 1 ≤ s.encFields.kind.toNat ∧ s.encFields.kind.toNat ≤ 19) ∧
      ((t.decText.ok = true ∧ t.decText.err = 0#2) ∨ (t.decText.ok = false ∧ ∃ f : DecFailure, t.decText.err = f.code)) ∧
      ((t.encText.ok = true ∧ t.encText.err = 0#3) ∨ (t.encText.ok = false ∧ ∃ f : EncFailure, t.encText.err = f.code))) ∧
    (∀ s s' t t' : State, SameInputs s s' → step s = .next t → step s' = .next t' →
      t'.decWord = t.decWord ∧ t'.encFields = t.encFields ∧ t'.decText = t.decText ∧ t'.encText = t.encText)

/-- A step runs the instruction that stands on dec_word (10_state.md R27, R30, 40_codec_operations.md R100). -/
def Obligations.StepRunsTheDecodedWord : Prop :=
    (∀ (s : State) (n : Nat), n < 65536 →
      s.withFetchWord 16 n = { s with decWord := { s.decWord with word := BitVec.ofNat 16 n } } ∧
      decodeTableWord 16 n = some (decodeWord (s.withFetchWord 16 n).decWord.word)) ∧
    (∀ s : State, s.port = .decWord → s.encFields = settledEncFields s.encFields →
      s.decText = settledDecText s.decText.textIn → s.encText = settledEncText s.encText.textIn →
      step s = exec (decodeWord s.decWord.word) s) ∧
    (∀ s : State, ∃ a t : State, exec (decodeWord s.decWord.word) { s with port := .decWord } = .next a ∧
      step s = .next t ∧ t.decWord = a.decWord)

/-- A step is, on each group, exec of the instruction that stands on that group's inputs (10_state.md R29,
20_memory.md R44). -/
def Obligations.StepRunsEachGroupsInstruction : Prop :=
    ∀ s : State, ∃ t : State, step s = .next t ∧ t.port = s.port ∧
    (∃ a : State, exec (decodeWord s.decWord.word) { s with port := .decWord } = .next a ∧ t.decWord = a.decWord) ∧
    (∀ i : Instr, instrOfFields s.encFields.kind s.encFields.ra s.encFields.rb s.encFields.rc s.encFields.nzp
        s.encFields.imm s.encFields.vec = some i →
      ∃ a : State, exec i { s with port := .encFields } = .next a ∧ t.encFields = a.encFields) ∧
    (∀ w : Word, readWord s.decText.textIn = .ok w →
      ∃ a : State, exec (decodeWord w) { s with port := .decText } = .next a ∧ t.decText = a.decText) ∧
    (∀ i : Instr, parseLine s.encText.textIn = .ok i →
      ∃ a : State, exec i { s with port := .encText } = .next a ∧ t.encText = a.encText)

/-- An instruction changes only the outputs of the group being evaluated (10_state.md R20, R23, R29). -/
def Obligations.ExecFrame : Prop :=
    ∀ (i : Instr) (s t : State), exec i s = .next t →
    SameInputs s t ∧ t.port = s.port ∧
    (s.port ≠ .decWord → t.decWord = s.decWord) ∧ (s.port ≠ .encFields → t.encFields = s.encFields) ∧
    (s.port ≠ .decText → t.decText = s.decText) ∧ (s.port ≠ .encText → t.encText = s.encText)

/-- Each group's outcome depends on its own inputs alone, and on no earlier evaluation (R329). -/
def Obligations.GroupsAreIndependent : Prop :=
    ∀ s s' t t' : State, step s = .next t → step s' = .next t' →
    (s'.decWord.word = s.decWord.word → t'.decWord = t.decWord) ∧
    (s'.encFields.kind = s.encFields.kind → s'.encFields.ra = s.encFields.ra → s'.encFields.rb = s.encFields.rb →
      s'.encFields.rc = s.encFields.rc → s'.encFields.nzp = s.encFields.nzp → s'.encFields.imm = s.encFields.imm →
      s'.encFields.vec = s.encFields.vec → t'.encFields = t.encFields) ∧
    (s'.decText.textIn = s.decText.textIn → t'.decText = t.decText) ∧
    (s'.encText.textIn = s.encText.textIn → t'.encText = t.encText)

/-- A failure is ok = 0 and its code, every data output 0 or empty; the codes are R272's (R272, R273). -/
def Obligations.FailureDrivesOnlyItsCode : Prop :=
    (∀ s t : State, step s = .next t →
      (t.decWord.err = 0#2 ↔ t.decWord.ok = true) ∧ (t.decWord.err = 0#2 ∨ t.decWord.err = 3#2) ∧
      (t.decWord.ok = false → t.decWord.kind = 0#5 ∧ t.decWord.ra = 0#3 ∧ t.decWord.rb = 0#3 ∧ t.decWord.rc = 0#3 ∧
        t.decWord.nzp = 0#3 ∧ t.decWord.imm = 0#16 ∧ t.decWord.vec = 0#8) ∧
      (t.encFields.ok = false → t.encFields.word = 0#16) ∧
      (t.decText.err = 0#2 ↔ t.decText.ok = true) ∧ (t.decText.ok = false → t.decText.textOut = []) ∧
      (t.encText.err = 0#3 ↔ t.encText.ok = true) ∧ t.encText.err.toNat ≤ 5 ∧
      (t.encText.ok = false → t.encText.word = 0#16 ∧ t.encText.bitsOut = [])) ∧
    (DecFailure.malformedWidth.code = 1#2 ∧ DecFailure.malformedDigits.code = 2#2 ∧ DecFailure.unknownOpcode.code = 3#2 ∧
      EncFailure.emptyInput.code = 1#3 ∧ EncFailure.unknownMnemonic.code = 2#3 ∧ EncFailure.missingOperand.code = 3#3 ∧
      EncFailure.invalidRegister.code = 4#3 ∧ EncFailure.invalidImmediate.code = 5#3) ∧
    (∀ (f : DecFailure) (s t : State), step s = .next t → codecDecodeWord s.decWord.word = .error f →
      t.decWord.ok = false ∧ t.decWord.err = f.code) ∧
    (∀ (f : DecFailure) (s t : State), step s = .next t → codecDecodeText s.decText.textIn = .error f →
      t.decText.ok = false ∧ t.decText.err = f.code) ∧
    (∀ (f : EncFailure) (s t : State), step s = .next t → codecEncodeText s.encText.textIn = .error f →
      t.encText.ok = false ∧ t.encText.err = f.code)

/-- dec_opcode is the word's top four bits after every step, on failure too (10_state.md R27, R31). -/
def Obligations.DecOpcodeIsAlwaysDriven : Prop :=
    ∀ s t : State, step s = .next t →
    t.decWord.opcode = s.decWord.word.extractLsb' 12 4 ∧ (t.decWord.kind = 0#5 ↔ t.decWord.ok = false)
end

