-- ==== Sys2Proof/Laws/State.lean ====
section
/-! SUPPORT. What each update of the state does to each field: one lemma per field per update, true by definition. -/

namespace Sys2Proof.Machine

@[simp] theorem driveRecord_decWord (r : Record) (s : State) :
    (driveRecord r s).decWord =
      { s.decWord with ok := true, err := 0#2, kind := r.kind.code, opcode := r.opcode, ra := r.ra, rb := r.rb, rc := r.rc, nzp := r.nzp, imm := trunc 16 r.imm, vec := r.vec } := rfl
@[simp] theorem driveRecord_encFields (r : Record) (s : State) : (driveRecord r s).encFields = s.encFields := rfl
@[simp] theorem driveRecord_decText (r : Record) (s : State) : (driveRecord r s).decText = s.decText := rfl
@[simp] theorem driveRecord_encText (r : Record) (s : State) : (driveRecord r s).encText = s.encText := rfl
@[simp] theorem driveRecord_port (r : Record) (s : State) : (driveRecord r s).port = s.port := rfl

@[simp] theorem driveWord_decWord (w : Word) (s : State) : (driveWord w s).decWord = s.decWord := rfl
@[simp] theorem driveWord_encFields (w : Word) (s : State) :
    (driveWord w s).encFields =
      { s.encFields with word := w, ok := true } := rfl
@[simp] theorem driveWord_decText (w : Word) (s : State) : (driveWord w s).decText = s.decText := rfl
@[simp] theorem driveWord_encText (w : Word) (s : State) : (driveWord w s).encText = s.encText := rfl
@[simp] theorem driveWord_port (w : Word) (s : State) : (driveWord w s).port = s.port := rfl

@[simp] theorem driveText_decWord (t : Text) (s : State) : (driveText t s).decWord = s.decWord := rfl
@[simp] theorem driveText_encFields (t : Text) (s : State) : (driveText t s).encFields = s.encFields := rfl
@[simp] theorem driveText_decText (t : Text) (s : State) :
    (driveText t s).decText =
      { s.decText with ok := true, err := 0#2, textOut := t } := rfl
@[simp] theorem driveText_encText (t : Text) (s : State) : (driveText t s).encText = s.encText := rfl
@[simp] theorem driveText_port (t : Text) (s : State) : (driveText t s).port = s.port := rfl

@[simp] theorem driveBits_decWord (w : Word) (s : State) : (driveBits w s).decWord = s.decWord := rfl
@[simp] theorem driveBits_encFields (w : Word) (s : State) : (driveBits w s).encFields = s.encFields := rfl
@[simp] theorem driveBits_decText (w : Word) (s : State) : (driveBits w s).decText = s.decText := rfl
@[simp] theorem driveBits_encText (w : Word) (s : State) :
    (driveBits w s).encText =
      { s.encText with ok := true, err := 0#3, word := w, bitsOut := bin16 w } := rfl
@[simp] theorem driveBits_port (w : Word) (s : State) : (driveBits w s).port = s.port := rfl

@[simp] theorem failDecWord_decWord (f : DecFailure) (o : BitVec 4) (s : State) :
    (failDecWord f o s).decWord =
      { s.decWord with ok := false, err := f.code, kind := Kind.none.code, opcode := o, ra := 0#3, rb := 0#3, rc := 0#3, nzp := 0#3, imm := 0#16, vec := 0#8 } := rfl
@[simp] theorem failDecWord_encFields (f : DecFailure) (o : BitVec 4) (s : State) :
    (failDecWord f o s).encFields =
      s.encFields := rfl
@[simp] theorem failDecWord_decText (f : DecFailure) (o : BitVec 4) (s : State) :
    (failDecWord f o s).decText =
      s.decText := rfl
@[simp] theorem failDecWord_encText (f : DecFailure) (o : BitVec 4) (s : State) :
    (failDecWord f o s).encText =
      s.encText := rfl
@[simp] theorem failDecWord_port (f : DecFailure) (o : BitVec 4) (s : State) :
    (failDecWord f o s).port =
      s.port := rfl

@[simp] theorem failEncFields_decWord (s : State) : (failEncFields s).decWord = s.decWord := rfl
@[simp] theorem failEncFields_encFields (s : State) :
    (failEncFields s).encFields =
      { s.encFields with word := 0#16, ok := false } := rfl
@[simp] theorem failEncFields_decText (s : State) : (failEncFields s).decText = s.decText := rfl
@[simp] theorem failEncFields_encText (s : State) : (failEncFields s).encText = s.encText := rfl
@[simp] theorem failEncFields_port (s : State) : (failEncFields s).port = s.port := rfl

@[simp] theorem failDecText_decWord (f : DecFailure) (s : State) : (failDecText f s).decWord = s.decWord := rfl
@[simp] theorem failDecText_encFields (f : DecFailure) (s : State) : (failDecText f s).encFields = s.encFields := rfl
@[simp] theorem failDecText_decText (f : DecFailure) (s : State) :
    (failDecText f s).decText =
      { s.decText with ok := false, err := f.code, textOut := [] } := rfl
@[simp] theorem failDecText_encText (f : DecFailure) (s : State) : (failDecText f s).encText = s.encText := rfl
@[simp] theorem failDecText_port (f : DecFailure) (s : State) : (failDecText f s).port = s.port := rfl

@[simp] theorem failEncText_decWord (f : EncFailure) (s : State) : (failEncText f s).decWord = s.decWord := rfl
@[simp] theorem failEncText_encFields (f : EncFailure) (s : State) : (failEncText f s).encFields = s.encFields := rfl
@[simp] theorem failEncText_decText (f : EncFailure) (s : State) : (failEncText f s).decText = s.decText := rfl
@[simp] theorem failEncText_encText (f : EncFailure) (s : State) :
    (failEncText f s).encText =
      { s.encText with ok := false, err := f.code, word := 0#16, bitsOut := [] } := rfl
@[simp] theorem failEncText_port (f : EncFailure) (s : State) : (failEncText f s).port = s.port := rfl

@[simp] theorem presentWord_decWord (w : Word) (s : State) :
    (presentWord w s).decWord =
      { s.decWord with word := w } := rfl
@[simp] theorem presentWord_encFields (w : Word) (s : State) : (presentWord w s).encFields = s.encFields := rfl
@[simp] theorem presentWord_decText (w : Word) (s : State) : (presentWord w s).decText = s.decText := rfl
@[simp] theorem presentWord_encText (w : Word) (s : State) : (presentWord w s).encText = s.encText := rfl
@[simp] theorem presentWord_port (w : Word) (s : State) : (presentWord w s).port = s.port := rfl

end Sys2Proof.Machine
end

