-- ==== Sys2Proof/Laws/Ops.lean ====
section
/-! SUPPORT. What each shared operation can do, said once: the answer of `deliver` and `rejectReserved` on each group,
`exec` as one of the two, and what an evaluation of each group answers. -/

namespace Sys2Proof.Machine

variable {t : Translation} {o : BitVec 4} {s s' : State}

/-! `deliver`, group by group. -/

theorem deliver_decWord (h : s.port = .decWord) : deliver t s = .next (driveRecord t.record s) := by
  simp only [deliver, h]

theorem deliver_encFields (h : s.port = .encFields) : deliver t s = .next (driveWord t.word s) := by
  simp only [deliver, h]

theorem deliver_decText (h : s.port = .decText) : deliver t s = .next (driveText t.text s) := by
  simp only [deliver, h]

theorem deliver_encText (h : s.port = .encText) : deliver t s = .next (driveBits t.word s) := by
  simp only [deliver, h]

/-- Everything `deliver` can do. -/
theorem deliver_next (h : deliver t s = .next s') :
    (s.port = .decWord ∧ s' = driveRecord t.record s) ∨ (s.port = .encFields ∧ s' = driveWord t.word s) ∨
      (s.port = .decText ∧ s' = driveText t.text s) ∨ (s.port = .encText ∧ s' = driveBits t.word s) := by
  unfold deliver at h
  split at h <;> cases h <;> simp [*]

/-! `rejectReserved`, group by group. -/

theorem rejectReserved_decWord (h : s.port = .decWord) :
    rejectReserved o s = .next (failDecWord .unknownOpcode o s) := by
  simp only [rejectReserved, h]

theorem rejectReserved_encFields (h : s.port = .encFields) : rejectReserved o s = .next (failEncFields s) := by
  simp only [rejectReserved, h]

theorem rejectReserved_decText (h : s.port = .decText) :
    rejectReserved o s = .next (failDecText .unknownOpcode s) := by
  simp only [rejectReserved, h]

theorem rejectReserved_encText (h : s.port = .encText) :
    rejectReserved o s = .next (failEncText .unknownMnemonic s) := by
  simp only [rejectReserved, h]

/-- Everything `rejectReserved` can do. -/
theorem rejectReserved_next (h : rejectReserved o s = .next s') :
    (s.port = .decWord ∧ s' = failDecWord .unknownOpcode o s) ∨ (s.port = .encFields ∧ s' = failEncFields s) ∨
      (s.port = .decText ∧ s' = failDecText .unknownOpcode s) ∨
      (s.port = .encText ∧ s' = failEncText .unknownMnemonic s) := by
  unfold rejectReserved at h
  split at h <;> cases h <;> simp [*]

/-! `exec`. -/

/-- An instruction that has a translation delivers it. -/
theorem exec_of_translation (i : Instr) (ht : translation i = some t) : exec i s = deliver t s := by
  cases i <;> simp only [translation, Option.some.injEq, reduceCtorEq] at ht <;> subst ht <;> rfl

/-- Only the reserved opcode has none. -/
theorem translation_eq_none (i : Instr) : translation i = none ↔ i = .illegal := by
  cases i <;> simp [translation]

/-- `exec` is `deliver` or `rejectReserved`: proofs about it cite this and never unfold an arm. -/
theorem exec_eq (i : Instr) (s : State) :
    exec i s = match translation i with
      | some t => deliver t s
      | none => rejectReserved 0b1101#4 s := by
  cases i <;> rfl

/-- The word in an instruction's translation is the word the encoder gives. -/
theorem translation_word (i : Instr) : (translation i).map Translation.word = encode i := by
  cases i <;> rfl

/-! `andThen`. -/

@[simp] theorem andThen_next (s : State) (f : State → Result) : andThen (.next s) f = f s := rfl

@[simp] theorem andThen_fault (e : Fault) (f : State → Result) : andThen (.fault e) f = .fault e := rfl

@[simp] theorem andThen_refused (e : Refusal) (f : State → Result) : andThen (.refused e) f = .refused e := rfl

/-- A chain that answers a next state passed through one. -/
theorem andThen_eq_next {r : Result} {f : State → Result} (h : andThen r f = .next s') :
    ∃ s1, r = .next s1 ∧ f s1 = .next s' := by
  cases r with
  | next s1 => exact ⟨s1, rfl, h⟩
  | fault e => cases h
  | refused e => cases h

end Sys2Proof.Machine
end

