-- ==== Sys2Proof/Laws/Evaluate.lean ====
section
/-! SUPPORT. What one evaluation of each port group answers, as a function of that group's inputs: proofs about a step
cite these and `step_eq`, and never unfold a meaning, the decoder or the parser. -/

namespace Sys2Proof.Machine

/-- A value of four bits is one of sixteen. -/
theorem opcode_cases {P : BitVec 4 → Prop} (h : ∀ k : Fin 16, P (BitVec.ofFin k)) (o : BitVec 4) : P o := h o.toFin

/-- BR's rows all have a translation, of opcode 0000. -/
theorem brOf_translation (nzp : BitVec 3) (off9 : Int) :
    ∃ t, translation (brOf nzp off9) = some t ∧ t.record.opcode = 0b0000#4 := by
  unfold brOf
  split <;> exact ⟨_, rfl, rfl⟩

/-- The opcode of a decoded word's record, or 1101 where there is none, is the word's top four bits. -/
theorem decodeWord_opcode (w : Word) :
    ((translation (decodeWord w)).map fun t => t.record.opcode).getD 0b1101#4 = opcodeOf w := by
  have key : ∀ o : BitVec 4, opcodeOf w = o →
      ((translation (decodeWord w)).map fun t => t.record.opcode).getD 0b1101#4 = o := by
    intro o
    refine opcode_cases (P := fun o => opcodeOf w = o → _ = o) ?_ o
    intro k hk
    obtain ⟨t, ht, ho⟩ := brOf_translation (w.extractLsb' 9 3) (sext (w.extractLsb' 0 9))
    unfold decodeWord
    rw [hk]
    fin_cases k <;> simp <;> (try rw [ht]) <;> (try split) <;> first | rfl | exact ho
  exact key _ rfl

/-- A record's opcode is its word's top four bits. -/
theorem translation_opcode {w : Word} {t : Translation} (h : translation (decodeWord w) = some t) :
    t.record.opcode = w.extractLsb' 12 4 := by
  have := decodeWord_opcode w
  simpa [h, opcodeOf] using this

/-- Only a word of opcode 1101 has no translation. -/
theorem opcode_of_translation_none {w : Word} (h : translation (decodeWord w) = none) :
    0b1101#4 = w.extractLsb' 12 4 := by
  have := decodeWord_opcode w
  simpa [h, opcodeOf] using this

/-- The word decoder's evaluation. -/
theorem evalDecWord_eq (s : State) :
    evalDecWord s = .next { s with decWord := settledDecWord s.decWord.word, port := .decWord } := by
  simp only [evalDecWord, settledDecWord, codecDecodeWord, exec_eq]
  cases h : translation (decodeWord s.decWord.word) with
  | some t => rfl
  | none =>
    simp only [← opcode_of_translation_none h]
    rfl

/-- The word encoder's evaluation. -/
theorem evalEncFields_eq (s : State) :
    evalEncFields s = .next { s with
      encFields := { s.encFields with
        word := ((instrOfFields s.encFields.kind s.encFields.ra s.encFields.rb s.encFields.rc s.encFields.nzp
          s.encFields.imm s.encFields.vec).bind encode).getD 0#16
        ok := ((instrOfFields s.encFields.kind s.encFields.ra s.encFields.rb s.encFields.rc s.encFields.nzp
          s.encFields.imm s.encFields.vec).bind encode).isSome }
      port := .encFields } := by
  simp only [evalEncFields]
  cases instrOfFields s.encFields.kind s.encFields.ra s.encFields.rb s.encFields.rc s.encFields.nzp s.encFields.imm
      s.encFields.vec with
  | none => rfl
  | some i =>
    simp only [exec_eq, Option.bind_some, ← translation_word]
    cases translation i <;> rfl

/-- The text decoder's evaluation. -/
theorem evalDecText_eq (s : State) :
    evalDecText s = .next { s with decText := settledDecText s.decText.textIn, port := .decText } := by
  simp only [evalDecText, settledDecText, codecDecodeText]
  cases readWord s.decText.textIn with
  | error f => rfl
  | ok w =>
    simp only [exec_eq]
    cases translation (decodeWord w) <;> rfl

/-- The text encoder's evaluation. -/
theorem evalEncText_eq (s : State) :
    evalEncText s = .next { s with encText := settledEncText s.encText.textIn, port := .encText } := by
  simp only [evalEncText, settledEncText, codecEncodeText]
  cases parseLine s.encText.textIn with
  | error f => rfl
  | ok i =>
    simp only [exec_eq, ← translation_word]
    cases translation i <;> rfl

/-- A step is the four evaluations, each of its own group's inputs. -/
theorem step_eq (s : State) :
    step s = .next
      { decWord := settledDecWord s.decWord.word
        encFields := { s.encFields with
          word := ((instrOfFields s.encFields.kind s.encFields.ra s.encFields.rb s.encFields.rc s.encFields.nzp
            s.encFields.imm s.encFields.vec).bind encode).getD 0#16
          ok := ((instrOfFields s.encFields.kind s.encFields.ra s.encFields.rb s.encFields.rc s.encFields.nzp
            s.encFields.imm s.encFields.vec).bind encode).isSome }
        decText := settledDecText s.decText.textIn
        encText := settledEncText s.encText.textIn
        port := s.port } := by
  simp only [step, evalAll, evalDecWord_eq, andThen_next, evalEncFields_eq, evalDecText_eq, evalEncText_eq]

end Sys2Proof.Machine
end

