-- ==== Sys2Proof/Laws/PerInstr.lean ====
section
/-! SUPPORT. The family `Opcode`: every word an instruction encodes to, for every NOT_FILL, carries the instruction's own
opcode in its top four bits, so no field spills into it (40_codec_operations.md R102, R103). -/

namespace Sys2Proof.Laws

/-- Fields are OR-ed in, bit by bit. -/
theorem opcodeOf_or (a b : Word) : opcodeOf (a ||| b) = opcodeOf a ||| opcodeOf b := by
  simp [opcodeOf, BitVec.extractLsb'_or]

/-- A field that ends below bit 12 does not reach the opcode. -/
theorem opcodeOf_place {n : Nat} (v : BitVec n) (lo : Nat) (h : n + lo ≤ 12) : opcodeOf (place v lo) = 0#4 := by
  apply BitVec.eq_of_getLsbD_eq
  intro i hi
  simp [opcodeOf, place, hi]
  intros
  exact BitVec.getLsbD_of_ge _ _ (by omega)

end Sys2Proof.Laws

namespace Sys2Proof.Laws.Opcode

/-- The opcode of each instruction (30_encoding.md R66). -/
def opcode : Instr → BitVec 4
  | .addR _ _ _ => 0b0001#4
  | .addI _ _ _ => 0b0001#4
  | .andR _ _ _ => 0b0101#4
  | .andI _ _ _ => 0b0101#4
  | .brNone _ => 0b0000#4
  | .brP _ => 0b0000#4
  | .brZ _ => 0b0000#4
  | .brZP _ => 0b0000#4
  | .brN _ => 0b0000#4
  | .brNP _ => 0b0000#4
  | .brNZ _ => 0b0000#4
  | .brNZP _ => 0b0000#4
  | .jmp _ => 0b1100#4
  | .ret => 0b1100#4
  | .jsr _ => 0b0100#4
  | .jsrr _ => 0b0100#4
  | .ld _ _ => 0b0010#4
  | .ldi _ _ => 0b1010#4
  | .lea _ _ => 0b1110#4
  | .ldr _ _ _ => 0b0110#4
  | .notR _ _ => 0b1001#4
  | .rti => 0b1000#4
  | .st _ _ => 0b0011#4
  | .sti _ _ => 0b1011#4
  | .str _ _ _ => 0b0111#4
  | .trap _ => 0b1111#4
  | .illegal => 0b1101#4

/-- Every encoding of `i` has `i`'s opcode. -/
def Statement (i : Instr) : Prop :=
  ∀ (fill : BitVec 6) (w : Word), encodeWith fill i = some w → opcodeOf w = opcode i

theorem addR (dr : Reg) (sr1 : Reg) (sr2 : Reg) : Statement (.addR dr sr1 sr2) := by
  intro fill w h
  cases h
  simp only [encodeAddR, opcodeOf_or, opcodeOf_place, Nat.reduceAdd, Nat.reduceLeDiff]
  rfl

theorem addI (dr : Reg) (sr1 : Reg) (imm5 : Int) : Statement (.addI dr sr1 imm5) := by
  intro fill w h
  cases h
  simp only [encodeAddI, opcodeOf_or, opcodeOf_place, Nat.reduceAdd, Nat.reduceLeDiff]
  rfl

theorem andR (dr : Reg) (sr1 : Reg) (sr2 : Reg) : Statement (.andR dr sr1 sr2) := by
  intro fill w h
  cases h
  simp only [encodeAndR, opcodeOf_or, opcodeOf_place, Nat.reduceAdd, Nat.reduceLeDiff]
  rfl

theorem andI (dr : Reg) (sr1 : Reg) (imm5 : Int) : Statement (.andI dr sr1 imm5) := by
  intro fill w h
  cases h
  simp only [encodeAndI, opcodeOf_or, opcodeOf_place, Nat.reduceAdd, Nat.reduceLeDiff]
  rfl

theorem brNone (off9 : Int) : Statement (.brNone off9) := by
  intro fill w h
  cases h
  simp only [encodeBr, opcodeOf_or, opcodeOf_place, Nat.reduceAdd, Nat.reduceLeDiff]
  rfl

theorem brP (off9 : Int) : Statement (.brP off9) := by
  intro fill w h
  cases h
  simp only [encodeBr, opcodeOf_or, opcodeOf_place, Nat.reduceAdd, Nat.reduceLeDiff]
  rfl

theorem brZ (off9 : Int) : Statement (.brZ off9) := by
  intro fill w h
  cases h
  simp only [encodeBr, opcodeOf_or, opcodeOf_place, Nat.reduceAdd, Nat.reduceLeDiff]
  rfl

theorem brZP (off9 : Int) : Statement (.brZP off9) := by
  intro fill w h
  cases h
  simp only [encodeBr, opcodeOf_or, opcodeOf_place, Nat.reduceAdd, Nat.reduceLeDiff]
  rfl

theorem brN (off9 : Int) : Statement (.brN off9) := by
  intro fill w h
  cases h
  simp only [encodeBr, opcodeOf_or, opcodeOf_place, Nat.reduceAdd, Nat.reduceLeDiff]
  rfl

theorem brNP (off9 : Int) : Statement (.brNP off9) := by
  intro fill w h
  cases h
  simp only [encodeBr, opcodeOf_or, opcodeOf_place, Nat.reduceAdd, Nat.reduceLeDiff]
  rfl

theorem brNZ (off9 : Int) : Statement (.brNZ off9) := by
  intro fill w h
  cases h
  simp only [encodeBr, opcodeOf_or, opcodeOf_place, Nat.reduceAdd, Nat.reduceLeDiff]
  rfl

theorem brNZP (off9 : Int) : Statement (.brNZP off9) := by
  intro fill w h
  cases h
  simp only [encodeBr, opcodeOf_or, opcodeOf_place, Nat.reduceAdd, Nat.reduceLeDiff]
  rfl

theorem jmp (base : Reg) : Statement (.jmp base) := by
  intro fill w h
  cases h
  simp only [encodeJmp, opcodeOf_or, opcodeOf_place, Nat.reduceAdd, Nat.reduceLeDiff]
  rfl

theorem ret : Statement (.ret) := by
  intro fill w h
  cases h
  decide

theorem jsr (off11 : Int) : Statement (.jsr off11) := by
  intro fill w h
  cases h
  simp only [encodeJsr, opcodeOf_or, opcodeOf_place, Nat.reduceAdd, Nat.reduceLeDiff]
  rfl

theorem jsrr (base : Reg) : Statement (.jsrr base) := by
  intro fill w h
  cases h
  simp only [encodeJsrr, opcodeOf_or, opcodeOf_place, Nat.reduceAdd, Nat.reduceLeDiff]
  rfl

theorem ld (dr : Reg) (off9 : Int) : Statement (.ld dr off9) := by
  intro fill w h
  cases h
  simp only [encodeLd, opcodeOf_or, opcodeOf_place, Nat.reduceAdd, Nat.reduceLeDiff]
  rfl

theorem ldi (dr : Reg) (off9 : Int) : Statement (.ldi dr off9) := by
  intro fill w h
  cases h
  simp only [encodeLdi, opcodeOf_or, opcodeOf_place, Nat.reduceAdd, Nat.reduceLeDiff]
  rfl

theorem lea (dr : Reg) (off9 : Int) : Statement (.lea dr off9) := by
  intro fill w h
  cases h
  simp only [encodeLea, opcodeOf_or, opcodeOf_place, Nat.reduceAdd, Nat.reduceLeDiff]
  rfl

theorem ldr (dr : Reg) (base : Reg) (off6 : Int) : Statement (.ldr dr base off6) := by
  intro fill w h
  cases h
  simp only [encodeLdr, opcodeOf_or, opcodeOf_place, Nat.reduceAdd, Nat.reduceLeDiff]
  rfl

theorem notR (dr : Reg) (sr : Reg) : Statement (.notR dr sr) := by
  intro fill w h
  cases h
  simp only [encodeNot, opcodeOf_or, opcodeOf_place, Nat.reduceAdd, Nat.reduceLeDiff]
  rfl

theorem rti : Statement (.rti) := by
  intro fill w h
  cases h
  decide

theorem st (sr : Reg) (off9 : Int) : Statement (.st sr off9) := by
  intro fill w h
  cases h
  simp only [encodeSt, opcodeOf_or, opcodeOf_place, Nat.reduceAdd, Nat.reduceLeDiff]
  rfl

theorem sti (sr : Reg) (off9 : Int) : Statement (.sti sr off9) := by
  intro fill w h
  cases h
  simp only [encodeSti, opcodeOf_or, opcodeOf_place, Nat.reduceAdd, Nat.reduceLeDiff]
  rfl

theorem str (sr : Reg) (base : Reg) (off6 : Int) : Statement (.str sr base off6) := by
  intro fill w h
  cases h
  simp only [encodeStr, opcodeOf_or, opcodeOf_place, Nat.reduceAdd, Nat.reduceLeDiff]
  rfl

theorem trap (vec8 : BitVec 8) : Statement (.trap vec8) := by
  intro fill w h
  cases h
  simp only [encodeTrap, opcodeOf_or, opcodeOf_place, Nat.reduceAdd, Nat.reduceLeDiff]
  rfl

theorem illegal : Statement (.illegal) := by
  intro fill w h
  cases h

end Sys2Proof.Laws.Opcode
end

