-- ==== Sys2Proof/Tests/Slice0.lean ====
section
/-! SUPPORT. Small tests of the model, their expected results taken from the spec's encodings and rules by hand, and for
every statement of Certificates/Slice0/Obligations.lean with hypotheses a witness that meets them. -/

namespace Sys2Proof.Tests

open Sys2Proof Sys2Proof.Machine

/-- A text written as a string. -/
def txt (s : String) : Text := chars s.toList

/-- The state after reset with one group's evaluation begun. -/
def onPort (p : PortGroup) : State := { State.reset with port := p }

/-- The state after reset with these inputs for the word decoder and the two text functions. -/
def presenting (word : Word) (bits line : Text) : State :=
  { State.reset with
    decWord := { State.reset.decWord with word := word }
    decText := { State.reset.decText with textIn := bits }
    encText := { State.reset.encText with textIn := line } }

/-- The state after reset with these inputs for the word encoder. -/
def presentingFields (kind : BitVec 5) (ra rb rc : Reg) (nzp : BitVec 3) (imm : NativeWord) (vec : BitVec 8) : State :=
  { State.reset with
    encFields := { State.reset.encFields with kind := kind, ra := ra, rb := rb, rc := rc, nzp := nzp, imm := imm, vec := vec } }

/-- The machine answers a next state, and `p` holds of it. -/
def answers (r : Result) (p : State → Bool) : Bool :=
  match r with
  | .next t => p t
  | _ => false

/-- An `Except` value equals a result. -/
def gives {e a : Type} [DecidableEq a] (x : Except e a) (v : a) : Bool :=
  match x with
  | .ok w => decide (w = v)
  | .error _ => false

/-- An `Except` value equals a failure. -/
def failsWith {e a : Type} [DecidableEq e] (x : Except e a) (f : e) : Bool :=
  match x with
  | .ok _ => false
  | .error g => decide (g = f)

/-! WellFormed refuses an ill-formed term for each of its checks (40_codec_operations.md R101), and takes the bounds. -/

theorem test_wf_addI :
    (Instr.addI 0#3 0#3 16).wellFormed = false ∧ (Instr.addI 0#3 0#3 (-17)).wellFormed = false ∧
    (Instr.addI 0#3 0#3 15).wellFormed = true ∧ (Instr.addI 0#3 0#3 (-16)).wellFormed = true := by decide

theorem test_wf_andI :
    (Instr.andI 0#3 0#3 16).wellFormed = false ∧ (Instr.andI 0#3 0#3 (-17)).wellFormed = false ∧
    (Instr.andI 0#3 0#3 15).wellFormed = true ∧ (Instr.andI 0#3 0#3 (-16)).wellFormed = true := by decide

theorem test_wf_brNone :
    (Instr.brNone 256).wellFormed = false ∧ (Instr.brNone (-257)).wellFormed = false ∧
    (Instr.brNone 255).wellFormed = true ∧ (Instr.brNone (-256)).wellFormed = true := by decide

theorem test_wf_brP :
    (Instr.brP 256).wellFormed = false ∧ (Instr.brP (-257)).wellFormed = false ∧
    (Instr.brP 255).wellFormed = true ∧ (Instr.brP (-256)).wellFormed = true := by decide

theorem test_wf_brZ :
    (Instr.brZ 256).wellFormed = false ∧ (Instr.brZ (-257)).wellFormed = false ∧
    (Instr.brZ 255).wellFormed = true ∧ (Instr.brZ (-256)).wellFormed = true := by decide

theorem test_wf_brZP :
    (Instr.brZP 256).wellFormed = false ∧ (Instr.brZP (-257)).wellFormed = false ∧
    (Instr.brZP 255).wellFormed = true ∧ (Instr.brZP (-256)).wellFormed = true := by decide

theorem test_wf_brN :
    (Instr.brN 256).wellFormed = false ∧ (Instr.brN (-257)).wellFormed = false ∧
    (Instr.brN 255).wellFormed = true ∧ (Instr.brN (-256)).wellFormed = true := by decide

theorem test_wf_brNP :
    (Instr.brNP 256).wellFormed = false ∧ (Instr.brNP (-257)).wellFormed = false ∧
    (Instr.brNP 255).wellFormed = true ∧ (Instr.brNP (-256)).wellFormed = true := by decide

theorem test_wf_brNZ :
    (Instr.brNZ 256).wellFormed = false ∧ (Instr.brNZ (-257)).wellFormed = false ∧
    (Instr.brNZ 255).wellFormed = true ∧ (Instr.brNZ (-256)).wellFormed = true := by decide

theorem test_wf_brNZP :
    (Instr.brNZP 256).wellFormed = false ∧ (Instr.brNZP (-257)).wellFormed = false ∧
    (Instr.brNZP 255).wellFormed = true ∧ (Instr.brNZP (-256)).wellFormed = true := by decide

theorem test_wf_ld :
    (Instr.ld 0#3 256).wellFormed = false ∧ (Instr.ld 0#3 (-257)).wellFormed = false ∧
    (Instr.ld 0#3 255).wellFormed = true ∧ (Instr.ld 0#3 (-256)).wellFormed = true := by decide

theorem test_wf_ldi :
    (Instr.ldi 0#3 256).wellFormed = false ∧ (Instr.ldi 0#3 (-257)).wellFormed = false ∧
    (Instr.ldi 0#3 255).wellFormed = true ∧ (Instr.ldi 0#3 (-256)).wellFormed = true := by decide

theorem test_wf_lea :
    (Instr.lea 0#3 256).wellFormed = false ∧ (Instr.lea 0#3 (-257)).wellFormed = false ∧
    (Instr.lea 0#3 255).wellFormed = true ∧ (Instr.lea 0#3 (-256)).wellFormed = true := by decide

theorem test_wf_st :
    (Instr.st 0#3 256).wellFormed = false ∧ (Instr.st 0#3 (-257)).wellFormed = false ∧
    (Instr.st 0#3 255).wellFormed = true ∧ (Instr.st 0#3 (-256)).wellFormed = true := by decide

theorem test_wf_sti :
    (Instr.sti 0#3 256).wellFormed = false ∧ (Instr.sti 0#3 (-257)).wellFormed = false ∧
    (Instr.sti 0#3 255).wellFormed = true ∧ (Instr.sti 0#3 (-256)).wellFormed = true := by decide

theorem test_wf_jsr :
    (Instr.jsr 1024).wellFormed = false ∧ (Instr.jsr (-1025)).wellFormed = false ∧
    (Instr.jsr 1023).wellFormed = true ∧ (Instr.jsr (-1024)).wellFormed = true := by decide

theorem test_wf_ldr :
    (Instr.ldr 0#3 0#3 32).wellFormed = false ∧ (Instr.ldr 0#3 0#3 (-33)).wellFormed = false ∧
    (Instr.ldr 0#3 0#3 31).wellFormed = true ∧ (Instr.ldr 0#3 0#3 (-32)).wellFormed = true := by decide

theorem test_wf_str :
    (Instr.str 0#3 0#3 32).wellFormed = false ∧ (Instr.str 0#3 0#3 (-33)).wellFormed = false ∧
    (Instr.str 0#3 0#3 31).wellFormed = true ∧ (Instr.str 0#3 0#3 (-32)).wellFormed = true := by decide

theorem test_wf_jmp :
    (Instr.jmp 7#3).wellFormed = false ∧ (Instr.jmp 6#3).wellFormed = true := by decide

theorem test_wf_illegal :
    Instr.illegal.wellFormed = false := by decide

/-! Decoding: for every constructor a word written out field by field from the formats of 30_encoding.md R64. -/

/-- 0001 101 011 000 110 -/
theorem test_decode_addR :
    decodeWord 0b0001101011000110#16 = .addR 5#3 3#3 6#3 := by decide

/-- 0001 101 011 1 10000 -/
theorem test_decode_addI :
    decodeWord 0b0001101011110000#16 = .addI 5#3 3#3 (-16) := by decide

/-- 0101 110 001 000 100 -/
theorem test_decode_andR :
    decodeWord 0b0101110001000100#16 = .andR 6#3 1#3 4#3 := by decide

/-- 0101 110 001 1 01111 -/
theorem test_decode_andI :
    decodeWord 0b0101110001101111#16 = .andI 6#3 1#3 15 := by decide

/-- 0000 000 000000011 -/
theorem test_decode_brNone :
    decodeWord 0b0000000000000011#16 = .brNone 3 := by decide

/-- 0000 001 111111111 -/
theorem test_decode_brP :
    decodeWord 0b0000001111111111#16 = .brP (-1) := by decide

/-- 0000 010 100000000 -/
theorem test_decode_brZ :
    decodeWord 0b0000010100000000#16 = .brZ (-256) := by decide

/-- 0000 011 011111111 -/
theorem test_decode_brZP :
    decodeWord 0b0000011011111111#16 = .brZP 255 := by decide

/-- 0000 100 000000101 -/
theorem test_decode_brN :
    decodeWord 0b0000100000000101#16 = .brN 5 := by decide

/-- 0000 101 000000110 -/
theorem test_decode_brNP :
    decodeWord 0b0000101000000110#16 = .brNP 6 := by decide

/-- 0000 110 000000111 -/
theorem test_decode_brNZ :
    decodeWord 0b0000110000000111#16 = .brNZ 7 := by decide

/-- 0000 111 111111110 -/
theorem test_decode_brNZP :
    decodeWord 0b0000111111111110#16 = .brNZP (-2) := by decide

/-- 1100 000 110 000000 -/
theorem test_decode_jmp :
    decodeWord 0b1100000110000000#16 = .jmp 6#3 := by decide

/-- 1100 000 111 000000 -/
theorem test_decode_ret :
    decodeWord 0b1100000111000000#16 = .ret := by decide

/-- 0100 1 10000000000 -/
theorem test_decode_jsr :
    decodeWord 0b0100110000000000#16 = .jsr (-1024) := by decide

/-- 0100 0 00 111 000000 -/
theorem test_decode_jsrr :
    decodeWord 0b0100000111000000#16 = .jsrr 7#3 := by decide

/-- 0010 100 000000001 -/
theorem test_decode_ld :
    decodeWord 0b0010100000000001#16 = .ld 4#3 1 := by decide

/-- 1010 011 100000001 -/
theorem test_decode_ldi :
    decodeWord 0b1010011100000001#16 = .ldi 3#3 (-255) := by decide

/-- 1110 001 010000000 -/
theorem test_decode_lea :
    decodeWord 0b1110001010000000#16 = .lea 1#3 128 := by decide

/-- 0110 010 101 100001 -/
theorem test_decode_ldr :
    decodeWord 0b0110010101100001#16 = .ldr 2#3 5#3 (-31) := by decide

/-- 1001 100 011 111111 -/
theorem test_decode_notR :
    decodeWord 0b1001100011111111#16 = .notR 4#3 3#3 := by decide

/-- 1000 000000000000 -/
theorem test_decode_rti :
    decodeWord 0b1000000000000000#16 = .rti := by decide

/-- 0011 110 000100000 -/
theorem test_decode_st :
    decodeWord 0b0011110000100000#16 = .st 6#3 32 := by decide

/-- 1011 001 111100000 -/
theorem test_decode_sti :
    decodeWord 0b1011001111100000#16 = .sti 1#3 (-32) := by decide

/-- 0111 011 110 011111 -/
theorem test_decode_str :
    decodeWord 0b0111011110011111#16 = .str 3#3 6#3 31 := by decide

/-- 1111 0000 10100101 -/
theorem test_decode_trap :
    decodeWord 0b1111000010100101#16 = .trap 0xA5#8 := by decide

/-- 1101 101010101010 -/
theorem test_decode_illegal :
    decodeWord 0b1101101010101010#16 = .illegal := by decide

/-- Bits no field names are not read (R69). -/
theorem test_decode_ignored_bits :
    decodeWord 0b0001001010011011#16 = .addR 1#3 2#3 3#3 ∧
    decodeWord 0b1100111111111111#16 = .ret ∧
    decodeWord 0b0100011010111111#16 = .jsrr 2#3 ∧
    decodeWord 0b1001001010010101#16 = .notR 1#3 2#3 ∧
    decodeWord 0b1000111111111111#16 = .rti ∧
    decodeWord 0b1111111100100101#16 = .trap 0x25#8 := by decide

theorem test_decode_table_word :
    decodeTableWord 16 0x1283 = some (.addR 1#3 2#3 3#3) ∧ decodeTableWord 24 0 = none := by decide

/-! Steps: one settling from a small state. The expected outputs are worked out by hand from the rules named. -/

/-- LDR R7, R0, #-32 on dec_word (R27, R184). -/
theorem test_step_decodes_ldr :
    answers (step (presenting 0x6E20#16 [] [])) (fun t => decide (t.decWord =
      { word := 0x6E20#16, ok := true, err := 0#2, kind := 12#5, opcode := 6#4, ra := 7#3, rb := 0#3, rc := 0#3,
        nzp := 0#3, imm := 0xFFE0#16, vec := 0#8 })) = true := by decide

/-- The reserved opcode: UnknownOpcode, dec_opcode driven all the same (R107, R31). -/
theorem test_step_rejects_reserved :
    answers (step (presenting 0xDABC#16 [] [])) (fun t => decide (t.decWord =
      { word := 0xDABC#16, ok := false, err := 3#2, kind := 0#5, opcode := 13#4, ra := 0#3, rb := 0#3, rc := 0#3,
        nzp := 0#3, imm := 0#16, vec := 0#8 })) = true := by decide

/-- A binary text with prefix and spaces (R211, R215). -/
theorem test_step_prints :
    answers (step (presenting 0#16 (txt "0b0001 0010 1011 1111") [])) (fun t =>
      t.decText.ok && decide (t.decText.textOut = txt "ADD R1, R2, #-1")) = true := by decide

/-- R212. -/
theorem test_step_malformed_width :
    answers (step (presenting 0#16 (txt "0b101") [])) (fun t =>
      !t.decText.ok && decide (t.decText.err = 1#2) && decide (t.decText.textOut = [])) = true := by decide

/-- R213. -/
theorem test_step_malformed_digits :
    answers (step (presenting 0#16 (txt "0001001010111112") [])) (fun t =>
      !t.decText.ok && decide (t.decText.err = 2#2)) = true := by decide

/-- Lower case, a tab, a vector cut to 8 bits, a further token (R163, R231, R233, R238). -/
theorem test_step_assembles :
    answers (step (presenting 0#16 [] (txt "trap\tx125 extra"))) (fun t =>
      t.encText.ok && decide (t.encText.word = 0xF025#16) && decide (t.encText.bitsOut = txt "1111000000100101")) = true := by decide

/-- A register above 7 (R239). -/
theorem test_step_register_range :
    answers (step (presenting 0#16 [] (txt "NOT R8, R1"))) (fun t =>
      !t.encText.ok && decide (t.encText.err = 4#3) && decide (t.encText.word = 0#16)) = true := by decide

/-- STR takes ra, rb and the low six bits of imm, and no other input (R102, R193). -/
theorem test_step_fields :
    answers (step (presentingFields 18#5 3#3 6#3 7#3 7#3 0xFFFF#16 0xFF#8)) (fun t =>
      t.encFields.ok && decide (t.encFields.word = 0b0111011110111111#16)) = true := by decide

/-- Kind code 20 is no kind (R108). -/
theorem test_step_no_kind :
    answers (step (presentingFields 20#5 3#3 6#3 7#3 7#3 0xFFFF#16 0xFF#8)) (fun t =>
      !t.encFields.ok && decide (t.encFields.word = 0#16)) = true := by decide

/-- NOT_FILL is 111111 (R70, R139). -/
theorem test_step_not_fill :
    answers (step (presenting 0#16 [] (txt "not r4,r3"))) (fun t => decide (t.encText.word = 0b1001100011111111#16)) = true := by decide

/-- The word handed over is the one the next step decodes. -/
theorem test_fetch_word :
    answers (step (State.reset.withFetchWord 16 0xF0A5)) (fun t =>
      decide (t.decWord.kind = 19#5) && decide (t.decWord.vec = 0xA5#8)) = true := by decide

/-! Witnesses. witness_X meets every hypothesis of Obligations.X, clause by clause, at boundary values. -/

theorem witness_SignExtensionReadsTwosComplement :
    0 < 5 ∧ (0b10000#5).getLsbD 4 = true ∧ (0b01111#5).getLsbD 4 = false ∧
    5 ≤ 16 ∧ 4 < 16 ∧ 5 < 16 ∧ 0 < 1 := by decide

theorem witness_SextOfTruncIsIdentityExactlyInRange :
    0 < 5 ∧ sext (trunc 5 15) = 15 ∧ sext (trunc 5 (-16)) = -16 ∧ sext (trunc 5 16) ≠ 16 ∧ sext (trunc 5 (-17)) ≠ -17 := by decide

theorem witness_AddDecodes :
    ((0x1000#16).extractLsb' 12 4 = 0b0001#4 ∧ (0x1000#16).getLsbD 5 = false) ∧ ((0x1FDF#16).extractLsb' 12 4 = 0b0001#4 ∧ (0x1FDF#16).getLsbD 5 = false) ∧
    ((0x1020#16).extractLsb' 12 4 = 0b0001#4 ∧ (0x1020#16).getLsbD 5 = true) ∧ ((0x1FFF#16).extractLsb' 12 4 = 0b0001#4 ∧ (0x1FFF#16).getLsbD 5 = true) := by decide

theorem witness_AndDecodes :
    ((0x5000#16).extractLsb' 12 4 = 0b0101#4 ∧ (0x5000#16).getLsbD 5 = false) ∧ ((0x5FDF#16).extractLsb' 12 4 = 0b0101#4 ∧ (0x5FDF#16).getLsbD 5 = false) ∧
    ((0x5020#16).extractLsb' 12 4 = 0b0101#4 ∧ (0x5020#16).getLsbD 5 = true) ∧ ((0x5FFF#16).extractLsb' 12 4 = 0b0101#4 ∧ (0x5FFF#16).getLsbD 5 = true) := by decide

theorem witness_NotDecodes :
    (0x9000#16).extractLsb' 12 4 = 0b1001#4 ∧ (0x9FFF#16).extractLsb' 12 4 = 0b1001#4 := by decide

theorem witness_BrDecodes :
    (0x0000#16).extractLsb' 9 7 = 0b0000000#7 ∧ (0x01FF#16).extractLsb' 9 7 = 0b0000000#7 ∧
    (0x0200#16).extractLsb' 9 7 = 0b0000001#7 ∧ (0x03FF#16).extractLsb' 9 7 = 0b0000001#7 ∧
    (0x0400#16).extractLsb' 9 7 = 0b0000010#7 ∧ (0x05FF#16).extractLsb' 9 7 = 0b0000010#7 ∧
    (0x0600#16).extractLsb' 9 7 = 0b0000011#7 ∧ (0x07FF#16).extractLsb' 9 7 = 0b0000011#7 ∧
    (0x0800#16).extractLsb' 9 7 = 0b0000100#7 ∧ (0x09FF#16).extractLsb' 9 7 = 0b0000100#7 ∧
    (0x0A00#16).extractLsb' 9 7 = 0b0000101#7 ∧ (0x0BFF#16).extractLsb' 9 7 = 0b0000101#7 ∧
    (0x0C00#16).extractLsb' 9 7 = 0b0000110#7 ∧ (0x0DFF#16).extractLsb' 9 7 = 0b0000110#7 ∧
    (0x0E00#16).extractLsb' 9 7 = 0b0000111#7 ∧ (0x0FFF#16).extractLsb' 9 7 = 0b0000111#7 := by decide

theorem witness_JmpAndRetDecode :
    (0xC180#16).extractLsb' 12 4 = 0b1100#4 ∧ (0xC180#16).extractLsb' 6 3 ≠ 7#3 ∧
    (0xC1C0#16).extractLsb' 12 4 = 0b1100#4 ∧ (0xC1C0#16).extractLsb' 6 3 = 7#3 ∧
    (0#3 ≠ 7#3 ∧ 6#3 ≠ 7#3) := by decide

theorem witness_JsrAndJsrrDecode :
    (0x4800#16).extractLsb' 12 4 = 0b0100#4 ∧ (0x4800#16).getLsbD 11 = true ∧
    (0x47FF#16).extractLsb' 12 4 = 0b0100#4 ∧ (0x47FF#16).getLsbD 11 = false := by decide

theorem witness_RtiDecodes :
    (0x8000#16).extractLsb' 12 4 = 0b1000#4 ∧ (0x8FFF#16).extractLsb' 12 4 = 0b1000#4 := by decide

theorem witness_TrapDecodes :
    (0xF000#16).extractLsb' 12 4 = 0b1111#4 ∧ (0xFFFF#16).extractLsb' 12 4 = 0b1111#4 ∧ 9 < 10 ∧ 5 < 6 := by decide

theorem witness_LoadsDecode :
    (0x2000#16).extractLsb' 12 4 = 0b0010#4 ∧ (0xAFFF#16).extractLsb' 12 4 = 0b1010#4 ∧ (0xE1FF#16).extractLsb' 12 4 = 0b1110#4 := by decide

theorem witness_StoresDecode :
    (0x3000#16).extractLsb' 12 4 = 0b0011#4 ∧ (0xBFFF#16).extractLsb' 12 4 = 0b1011#4 := by decide

theorem witness_LdrAndStrDecode :
    (0x6000#16).extractLsb' 12 4 = 0b0110#4 ∧ (0x7FFF#16).extractLsb' 12 4 = 0b0111#4 := by decide

/-- The states in which DecodesTo (every …Decodes statement) speaks. -/
theorem witness_DecodesTo :
    (onPort .decWord).port = .decWord ∧ (onPort .decText).port = .decText := by decide

/-- The states in which AssemblesTo (every …Encodes statement) speaks. -/
theorem witness_AssemblesTo :
    (onPort .encFields).port = .encFields ∧ (onPort .encText).port = .encText := by decide

theorem witness_ReservedOpcodeIsUnknownOpcode :
    (0xD000#16).extractLsb' 12 4 = 0b1101#4 ∧ (0xDFFF#16).extractLsb' 12 4 = 0b1101#4 ∧ (0xCFFF#16).extractLsb' 12 4 ≠ 0b1101#4 ∧ (0xE000#16).extractLsb' 12 4 ≠ 0b1101#4 ∧
    failsWith (codecDecodeWord 0xD000#16) .unknownOpcode = true ∧
    (onPort .decWord).port = .decWord := by decide

theorem witness_ReservedOpcodeOnTheOtherGroups :
    (onPort .decText).port = .decText ∧ (onPort .encFields).port = .encFields ∧ (onPort .encText).port = .encText := by decide

theorem witness_AddEncodes :
    tokens (txt "add r1,r2,r3") =
      [txt "ADD", txt "R1", txt "R2", txt "R3"] ∧
    tokens (txt "ADD R1, R2, #-1 more") =
      [txt "ADD", txt "R1", txt "R2", txt "#-1", txt "MORE"] ∧
    ((txt "R3").take 1 = chars ['R'] ∧ (txt "#-1").take 1 ≠ chars ['R']) ∧
    tokens (txt "add") = [txt "ADD"] ∧ ([] : List Text).length < 3 ∧
    tokens (txt "ADD R1 R2") = txt "ADD" :: [txt "R1", txt "R2"] ∧ ([txt "R1", txt "R2"]).length < 3 := by decide

theorem witness_AndEncodes :
    tokens (txt "and r1,r2,r3") =
      [txt "AND", txt "R1", txt "R2", txt "R3"] ∧
    tokens (txt "AND R1, R2, x1F") =
      [txt "AND", txt "R1", txt "R2", txt "X1F"] ∧
    ((txt "R3").take 1 = chars ['R'] ∧ (txt "X1F").take 1 ≠ chars ['R']) ∧
    tokens (txt "and") = [txt "AND"] ∧ ([] : List Text).length < 3 ∧
    tokens (txt "AND R1 R2") = txt "AND" :: [txt "R1", txt "R2"] ∧ ([txt "R1", txt "R2"]).length < 3 := by decide

theorem witness_NotEncodes :
    tokens (txt "not r1,r2") =
      [txt "NOT", txt "R1", txt "R2"] ∧
    tokens (txt "not") = [txt "NOT"] ∧ ([] : List Text).length < 2 ∧
    tokens (txt "NOT R1") = txt "NOT" :: [txt "R1"] ∧ ([txt "R1"]).length < 2 := by decide

theorem witness_BrEncodes :
    tokens (txt "BRn #-3") = (chars ['B', 'R'] ++ txt "N") :: txt "#-3" :: [] ∧
    tokens (txt "BRz #-3") = (chars ['B', 'R'] ++ txt "Z") :: txt "#-3" :: [] ∧
    tokens (txt "BRp #-3") = (chars ['B', 'R'] ++ txt "P") :: txt "#-3" :: [] ∧
    tokens (txt "BRnz #-3") = (chars ['B', 'R'] ++ txt "NZ") :: txt "#-3" :: [] ∧
    tokens (txt "BRnp #-3") = (chars ['B', 'R'] ++ txt "NP") :: txt "#-3" :: [] ∧
    tokens (txt "BRzp #-3") = (chars ['B', 'R'] ++ txt "ZP") :: txt "#-3" :: [] ∧
    tokens (txt "BRnzp #-3") = (chars ['B', 'R'] ++ txt "NZP") :: txt "#-3" :: [] ∧
    tokens (txt "BR #-3") = (chars ['B', 'R'] ++ txt "") :: txt "#-3" :: [] ∧
    tokens (txt "brN") = [chars ['B', 'R'] ++ txt "N"] ∧
    tokens (txt "brZ") = [chars ['B', 'R'] ++ txt "Z"] ∧
    tokens (txt "brP") = [chars ['B', 'R'] ++ txt "P"] ∧
    tokens (txt "brNZ") = [chars ['B', 'R'] ++ txt "NZ"] ∧
    tokens (txt "brNP") = [chars ['B', 'R'] ++ txt "NP"] ∧
    tokens (txt "brZP") = [chars ['B', 'R'] ++ txt "ZP"] ∧
    tokens (txt "brNZP") = [chars ['B', 'R'] ++ txt "NZP"] ∧
    tokens (txt "br") = [chars ['B', 'R'] ++ txt ""] ∧
    txt "PN" ∉ [chars ['N'], chars ['Z'], chars ['P'], chars ['N', 'Z'], chars ['N', 'P'], chars ['Z', 'P'],
      chars ['N', 'Z', 'P'], []] ∧ tokens (txt "BRPN 1") = (chars ['B', 'R'] ++ txt "PN") :: [txt "1"] ∧
    txt "X" ∉ [chars ['N'], chars ['Z'], chars ['P'], chars ['N', 'Z'], chars ['N', 'P'], chars ['Z', 'P'],
      chars ['N', 'Z', 'P'], []] ∧ tokens (txt "BRX 1") = (chars ['B', 'R'] ++ txt "X") :: [txt "1"] := by decide

theorem witness_JmpAndRetEncode :
    tokens (txt "jmp r7") =
      [txt "JMP", txt "R7"] ∧
    tokens (txt "jmp") = [txt "JMP"] ∧ ([] : List Text).length < 1 ∧
    tokens (txt "ret") =
      [txt "RET"] ∧
    tokens (txt "RET R9") =
      [txt "RET", txt "R9"] := by decide

theorem witness_JsrAndJsrrEncode :
    tokens (txt "jsr #-1024") =
      [txt "JSR", txt "#-1024"] ∧
    tokens (txt "jsr") = [txt "JSR"] ∧ ([] : List Text).length < 1 ∧
    tokens (txt "jsrr r7") =
      [txt "JSRR", txt "R7"] ∧
    tokens (txt "jsrr") = [txt "JSRR"] ∧ ([] : List Text).length < 1 := by decide

theorem witness_RtiEncodes :
    tokens (txt "rti") =
      [txt "RTI"] ∧
    tokens (txt "RTI x") =
      [txt "RTI", txt "X"] := by decide

theorem witness_TrapEncodes :
    tokens (txt "trap xff") =
      [txt "TRAP", txt "XFF"] ∧
    tokens (txt "trap") = [txt "TRAP"] ∧ ([] : List Text).length < 1 := by decide

theorem witness_LoadsEncode :
    tokens (txt "ld r1,#-256") =
      [txt "LD", txt "R1", txt "#-256"] ∧
    tokens (txt "ld") = [txt "LD"] ∧ ([] : List Text).length < 2 ∧
    tokens (txt "LD R1") = txt "LD" :: [txt "R1"] ∧ ([txt "R1"]).length < 2 ∧
    tokens (txt "ldi r1,#-256") =
      [txt "LDI", txt "R1", txt "#-256"] ∧
    tokens (txt "ldi") = [txt "LDI"] ∧ ([] : List Text).length < 2 ∧
    tokens (txt "LDI R1") = txt "LDI" :: [txt "R1"] ∧ ([txt "R1"]).length < 2 ∧
    tokens (txt "lea r1,#-256") =
      [txt "LEA", txt "R1", txt "#-256"] ∧
    tokens (txt "lea") = [txt "LEA"] ∧ ([] : List Text).length < 2 ∧
    tokens (txt "LEA R1") = txt "LEA" :: [txt "R1"] ∧ ([txt "R1"]).length < 2 := by decide

theorem witness_StoresEncode :
    tokens (txt "st r1,#-256") =
      [txt "ST", txt "R1", txt "#-256"] ∧
    tokens (txt "st") = [txt "ST"] ∧ ([] : List Text).length < 2 ∧
    tokens (txt "ST R1") = txt "ST" :: [txt "R1"] ∧ ([txt "R1"]).length < 2 ∧
    tokens (txt "sti r1,#-256") =
      [txt "STI", txt "R1", txt "#-256"] ∧
    tokens (txt "sti") = [txt "STI"] ∧ ([] : List Text).length < 2 ∧
    tokens (txt "STI R1") = txt "STI" :: [txt "R1"] ∧ ([txt "R1"]).length < 2 := by decide

theorem witness_LdrAndStrEncode :
    tokens (txt "ldr r1,r2,#-32") =
      [txt "LDR", txt "R1", txt "R2", txt "#-32"] ∧
    tokens (txt "ldr") = [txt "LDR"] ∧ ([] : List Text).length < 3 ∧
    tokens (txt "LDR R1 R2") = txt "LDR" :: [txt "R1", txt "R2"] ∧ ([txt "R1", txt "R2"]).length < 3 ∧
    tokens (txt "str r1,r2,#-32") =
      [txt "STR", txt "R1", txt "R2", txt "#-32"] ∧
    tokens (txt "str") = [txt "STR"] ∧ ([] : List Text).length < 3 ∧
    tokens (txt "STR R1 R2") = txt "STR" :: [txt "R1", txt "R2"] ∧ ([txt "R1", txt "R2"]).length < 3 := by decide

/-- Four texts that do not begin with `0b`. -/
theorem witness_DecoderInputIsNormalised :
    ∀ raw ∈ [[], txt "0", txt " 0b1", txt "0B1"], ∀ rest : Text, raw ≠ chars ['0', 'b'] ++ rest := by
  have key : ∀ raw ∈ [[], txt "0", txt " 0b1", txt "0B1"], raw.take 2 ≠ chars ['0', 'b'] := by decide
  intro raw h rest e
  refine key raw h ?_
  rw [e]
  rfl

theorem witness_DecodeTextOutcome :
    (normalise (txt "0b000100101011111")).length ≠ 16 ∧ (normalise (txt "00010010101111110")).length ≠ 16 ∧
    (normalise (txt "0b0001001010111112")).length = 16 ∧ ∃ x ∈ normalise (txt "0b0001001010111112"), x ≠ 0x30#8 ∧ x ≠ 0x31#8 ∧
    (normalise (txt "0b 0001001010111111")).length = 16 ∧ ∀ x ∈ normalise (txt "0b 0001001010111111"), x = 0x30#8 ∨ x = 0x31#8 ∧
    ∀ k < 16, ((0x12BF#16).getLsbD (15 - k) = true ↔ (normalise (txt "0b 0001001010111111"))[k]? = some 0x31#8) ∧
    ∀ k < 16, ((0xD000#16).getLsbD (15 - k) = true ↔ (normalise (txt "1101000000000000"))[k]? = some 0x31#8) := by decide

theorem witness_PrintedOperands :
    0 < 1 ∧ 9 < 10 ∧ 5 < 6 := by decide

theorem witness_CanonicalTextIsShortAscii :
    (Instr.addI 1#3 2#3 (-16)).wellFormed = true ∧ Instr.ret.wellFormed = true := by decide

theorem witness_TokensOfALine :
    0x2C#8 ∈ separators ∧ 0x20#8 ∈ separators ∧ 0x0D#8 ∈ separators ∧
    txt "aZz" ≠ [] ∧ ∀ x ∈ txt "aZz", x ∉ separators := by decide

theorem witness_RegisterTokenGrammar :
    gives (regTok (txt "R7")) 7#3 = true ∧ gives (regTok (txt "R007")) 7#3 = true ∧
    failsWith (regTok (txt "R8")) .invalidRegister = true ∧ failsWith (regTok (txt "R")) .invalidRegister = true ∧
      failsWith (regTok []) .invalidRegister = true ∧
    [7] ≠ [] ∧ (∀ d ∈ [7], d < 10) ∧ (txt "R7" : Text) = 0x52#8 :: [7].map (fun d => BitVec.ofNat 8 (0x30 + d)) := by decide

theorem witness_ImmediateTokenGrammar :
    0x2D#8 ≠ 0x23#8 ∧ 0x2D#8 ≠ 0x58#8 ∧
    decLit (txt "-16") = some (-16) ∧ decLit (txt "31") = some 31 ∧ decLit (txt "-") = none ∧ decLit (txt "+1") = none ∧
    hexLit (txt "1F") = some 31 ∧ hexLit (txt "-1") = none ∧ hexLit [] = none ∧
    [1, 6] ≠ [] ∧ (∀ d ∈ [1, 6], d < 10) ∧ [1, 15] ≠ [] ∧ (∀ d ∈ [1, 15], d < 16) := by decide

theorem witness_EncoderFailurePriority :
    failsWith (codecEncodeText [0x2C#8]) .emptyInput = true ∧ tokens [0x2C#8] = [] ∧
    failsWith (codecEncodeText (txt "ADDS R9")) .unknownMnemonic = true ∧ tokens (txt "ADDS R9") = [txt "ADDS", txt "R9"] ∧
    failsWith (codecEncodeText (txt "ADD R9, R1")) .missingOperand = true ∧ tokens (txt "ADD R9, R1") = [txt "ADD", txt "R9", txt "R1"] ∧
      (txt "ADD", 4) ∈ firstTokens ∧ ([txt "R9", txt "R1"]).length + 1 < 4 := by decide

theorem witness_ExtraTokensAreNotRead :
    (txt "NOT", 3) ∈ firstTokens ∧
    tokens (txt "NOT R1, R2") = txt "NOT" :: [txt "R1", txt "R2"] ∧
    tokens (txt "NOT R1, R2, x9 y") = txt "NOT" :: [txt "R1", txt "R2", txt "X9", txt "Y"] ∧
    3 ≤ ([txt "R1", txt "R2"]).length + 1 ∧ 3 ≤ ([txt "R1", txt "R2", txt "X9", txt "Y"]).length + 1 ∧
    ([txt "R1", txt "R2"]).take (3 - 1) = ([txt "R1", txt "R2", txt "X9", txt "Y"]).take (3 - 1) := by decide

theorem witness_Bin16IsReadBack :
    0 < 16 ∧ 15 < 16 ∧
    gives (codecEncodeText (txt "LEA R3, #-1")) 0xE7FF#16 = true := by decide

theorem witness_UndefinedKindCodeGivesNoWord :
    (∀ k ∈ [1, 19], 1 ≤ k ∧ k ≤ 19) ∧ (∀ k ∈ [0, 20, 31], ¬(1 ≤ k ∧ k ≤ 19) ∧ k < 32) := by decide

theorem witness_DecodeInvertsEncode :
    (Instr.ldr 7#3 0#3 (-32)).wellFormed = true ∧ (Instr.jmp 6#3).wellFormed = true ∧ (Instr.brNone 255).wellFormed = true := by decide

theorem witness_EncodeOfDecodeFillsIgnoredBits :
    (0xCFFF#16).extractLsb' 12 4 ≠ 0b1101#4 ∧ encodeWith 0#6 (decodeWord 0xCFFF#16) = some 0xC1C0#16 ∧
    (0x9015#16).extractLsb' 12 4 ≠ 0b1101#4 ∧ encodeWith 0#6 (decodeWord 0x9015#16) = some 0x9000#16 := by decide

theorem witness_IgnoredBitsDoNotMatter :
    decodeWord 0x9015#16 = decodeWord 0x903F#16 ∧ decodeWord 0x9015#16 ≠ decodeWord 0x9055#16 := by decide

theorem witness_IllegalEncodingsAreOneOpcode :
    (∀ n ∈ [0xD000, 0xDFFF], 0xD000 ≤ (BitVec.ofNat 16 n).toNat ∧ (BitVec.ofNat 16 n).toNat ≤ 0xDFFF) ∧
    (∀ n ∈ [0, 0xCFFF, 0xE000, 0xFFFF], ¬(0xD000 ≤ (BitVec.ofNat 16 n).toNat ∧ (BitVec.ofNat 16 n).toNat ≤ 0xDFFF)) ∧
    codecEncodeFields 6#5 0#3 7#3 0#3 0#3 0#16 0#8 = some 0xC1C0#16 ∧
    gives (codecEncodeText (txt "RET")) 0xC1C0#16 = true := by decide

theorem witness_DecodedInstructionsAreWellFormed :
    (0xCFFF#16).extractLsb' 12 4 ≠ 0b1101#4 ∧ (0xE000#16).extractLsb' 12 4 ≠ 0b1101#4 := by decide

theorem witness_SilentTruncation :
    encodeAddI 0#3 0#3 31 = encodeAddI 0#3 0#3 (-1) ∧ (31 : Int) % 32 = (-1) % 32 ∧
    encodeAddI 0#3 0#3 15 ≠ encodeAddI 0#3 0#3 16 ∧ (15 : Int) % 32 ≠ 16 % 32 := by decide

theorem witness_OpcodeTableIsTheDecoder :
    ∃ r ∈ opcodeTable, 0xC1C0#16 &&& r.mask = r.pattern ∧ r.kind = .ret ∧ ∃ q ∈ opcodeTable, 0xC1C0#16 &&& q.mask = q.pattern ∧ q.kind = .jmp ∧
    kindOf (decodeWord 0xD000#16) = .none ∧ kindOf (decodeWord 0xC1C0#16) = .ret := by decide

theorem witness_WordToTextToWord :
    (0x0000#16).extractLsb' 12 4 ≠ 0b1101#4 ∧ (0xFFFF#16).extractLsb' 12 4 ≠ 0b1101#4 := by decide

theorem witness_EncodedLineIsStable :
    gives (codecEncodeText (txt "br #300")) 0x0F2C#16 = true := by decide

theorem witness_TextTellsInstructionsApart :
    (Instr.brNone 4).wellFormed = true ∧ (Instr.brNZP 4).wellFormed = true ∧ Instr.brNone 4 ≠ Instr.brNZP 4 ∧
    Instr.ret.wellFormed = true ∧ (Instr.jmp 6#3).wellFormed = true ∧ Instr.ret ≠ Instr.jmp 6#3 ∧
    render (.brNone 4) = render (.brNZP 4) ∧ render .ret ≠ render (.jmp 6#3) := by decide

/-- A step that answers a next state: the premise of StepSettlesEveryOutput, FailureDrivesOnlyItsCode,
DecOpcodeIsAlwaysDriven. -/
theorem witness_StepSettlesEveryOutput : step State.reset = .next State.reset := rfl

/-- A settled state. -/
theorem witness_SettledStateIsAFixpoint : Settled State.reset := ⟨rfl, rfl, rfl, rfl⟩

/-- The inputs of two states that differ in an output and in the group last evaluated. -/
theorem witness_StepAlwaysCompletes :
    SameInputs State.reset { onPort .encText with decText := { State.reset.decText with err := 2#2 } } ∧
      ∃ t t', step State.reset = .next t ∧
        step { onPort .encText with decText := { State.reset.decText with err := 2#2 } } = .next t' :=
  ⟨⟨rfl, ⟨rfl, rfl, rfl, rfl, rfl, rfl, rfl⟩, rfl, rfl⟩, _, _, rfl, rfl⟩

/-- A state whose other three groups are settled, with a new word on dec_word. -/
theorem witness_StepRunsTheDecodedWord :
    65535 < 65536 ∧ (presenting 0x1283#16 [] []).port = .decWord ∧
      (presenting 0x1283#16 [] []).encFields = settledEncFields (presenting 0x1283#16 [] []).encFields ∧
      (presenting 0x1283#16 [] []).decText = settledDecText (presenting 0x1283#16 [] []).decText.textIn ∧
      (presenting 0x1283#16 [] []).encText = settledEncText (presenting 0x1283#16 [] []).encText.textIn :=
  ⟨by decide, rfl, rfl, rfl, rfl⟩

theorem witness_StepRunsEachGroupsInstruction :
    instrOfFields 6#5 0#3 7#3 0#3 0#3 0#16 0#8 = some (.jmp 7#3) ∧
    gives (readWord (txt "0b1000000000000000")) 0x8000#16 = true ∧
    gives (parseLine (txt "jsr 5")) (.jsr 5) = true := by decide

/-- On each group `exec` answers a next state, and the other groups exist. -/
theorem witness_ExecFrame :
    ∀ p : PortGroup, ∃ t, exec (.addI 1#3 2#3 (-1)) (onPort p) = .next t := by
  intro p
  cases p <;> exact ⟨_, rfl⟩

/-- Two steps that share the inputs of every group. -/
theorem witness_GroupsAreIndependent :
    ∃ t t', step State.reset = .next t ∧ step (onPort .encText) = .next t' ∧ t.decWord = t'.decWord :=
  ⟨_, _, rfl, rfl, rfl⟩

theorem witness_FailureDrivesOnlyItsCode :
    failsWith (codecDecodeWord 0xDFFF#16) .unknownOpcode = true ∧
    failsWith (codecDecodeText (txt "2222222222222222")) .malformedDigits = true ∧
    failsWith (codecEncodeText (txt "TRAP y")) .invalidImmediate = true := by decide

theorem witness_DecOpcodeIsAlwaysDriven :
    answers (step (presenting 0xD000#16 [] [])) (fun t => decide (t.decWord.ok = false)) = true := by decide

end Sys2Proof.Tests
end

section
/-! PROOF. What the model's field functions `trunc` and `sext` do (00_scope.md R10, R11), for every width. -/

namespace Sys2Proof

/-- `2 ^ n` is positive, so the remainder is non-negative and its reading as a natural number loses nothing. -/
theorem natCast_toNat_trunc (n : Nat) (a : Int) : ((trunc n a).toNat : Int) = a % (2 : Int) ^ n := by
  have hnonneg : 0 ≤ a % (2 : Int) ^ n := Int.emod_nonneg a (by positivity)
  simpa [trunc, BitVec.toNat_ofInt] using hnonneg

@[simp] theorem trunc_natCast_toNat {n : Nat} (v : BitVec n) : trunc n (v.toNat : Int) = v := by
  rw [trunc, BitVec.ofInt_natCast, BitVec.ofNat_toNat, BitVec.setWidth_eq]

@[simp] theorem trunc_sext {n : Nat} (v : BitVec n) : trunc n (sext v) = v :=
  BitVec.ofInt_toInt

/-- Settles O2: the value is `BitVec.ofInt`'s remainder, and both readings of a field, unsigned and signed,
truncate back to it; idempotence is the unsigned one at `trunc n a`. -/
theorem truncationIsReductionModTwoToN : Obligations.TruncationIsReductionModTwoToN :=
  ⟨natCast_toNat_trunc, fun n a => trunc_natCast_toNat (trunc n a), fun _ v => trunc_sext v⟩

end Sys2Proof
end

section
/-! PROOF. ENCODE_FIELDS's layouts, written as concatenations (30_encoding.md R64), are its OR-combinations of placed
fields (40_codec_operations.md R102). -/

namespace Sys2Proof.Machine

/-- A field of all the word's bits, placed at bit 0, is the word. -/
theorem place_zero_eq (w : Word) : place w 0 = w := by
  simp [place]

/-- Two adjacent fields are placed one above the other: a concatenation is an OR of placed fields. -/
theorem place_append {m n : Nat} (high : BitVec m) (low : BitVec n) (lo : Nat) :
    place (high ++ low) lo = place high (n + lo) ||| place low lo := by
  apply BitVec.eq_of_getLsbD_eq
  intro i hi
  simp only [place, BitVec.getLsbD_shiftLeft, BitVec.getLsbD_setWidth, BitVec.getLsbD_append, BitVec.getLsbD_or]
  by_cases hlow : i - lo < n
  · have hhigh : i < n + lo := by omega
    simp [hlow, hhigh]
  · have hlow_false : low.getLsbD (i - lo) = false := BitVec.getLsbD_of_ge _ _ (by omega)
    grind

theorem trunc_sext_of_le {m n : Nat} (v : BitVec n) (h : m ≤ n) : trunc m (sext v) = v.extractLsb' 0 m := by
  rw [← BitVec.setWidth_eq_extractLsb' h, ← BitVec.signExtend_eq_setWidth_of_le v h]
  rfl

theorem encode_brOf (nzp : BitVec 3) (off9 : Int) : encode (brOf nzp off9) = some (encodeBr nzp off9) := by
  have hall : ∀ k : Fin 8, encode (brOf (BitVec.ofFin k) off9) = some (encodeBr (BitVec.ofFin k) off9) := by
    intro k
    fin_cases k <;> rfl
  exact hall nzp.toFin

theorem eq_of_place_zero_eq {w w' : Word} (h : place w 0 = w') : w = w' := by
  rw [← h, place_zero_eq]

/-- Kind by kind: an undefined code has no word on either side; for the nineteen others the layout, placed at bit 0,
comes apart into the fields that the OR-combination places. -/
theorem codecEncodeFields_eq_encode (kind : BitVec 5) (ra rb rc : Reg) (nzp : BitVec 3) (imm : NativeWord)
    (vec : BitVec 8) :
    codecEncodeFields kind ra rb rc nzp imm vec = (instrOfFields kind ra rb rc nzp imm vec).bind encode := by
  unfold codecEncodeFields instrOfFields
  generalize kind.toNat = code
  split
  case h_20 => simp_all
  case' h_5 => refine Eq.trans ?_ (encode_brOf nzp (sext imm)).symm
  all_goals
    refine congrArg some (eq_of_place_zero_eq ?_)
    repeat rw [place_append]
    simp [place, trunc_sext_of_le, encodeAddR, encodeAddI, encodeAndR, encodeAndI, encodeBr, encodeJmp, encodeRet,
      encodeJsr, encodeJsrr, encodeLd, encodeLdi, encodeLdr, encodeLea, encodeNot, encodeRti, encodeSt, encodeSti,
      encodeStr, encodeTrap]

end Sys2Proof.Machine
end

section
/-! PROOF. A step settles the block (10_state.md R30, R32): its answer is `settle`, whose outputs are the functions of
the present inputs and whose inputs are the state's own. -/

namespace Sys2Proof.Machine

/-- The state whose outputs are the functions of the inputs that stand on `s`. -/
def settle (s : State) : State where
  decWord := settledDecWord s.decWord.word
  encFields := settledEncFields s.encFields
  decText := settledDecText s.decText.textIn
  encText := settledEncText s.encText.textIn
  port := s.port

@[simp] theorem settle_decWord (s : State) : (settle s).decWord = settledDecWord s.decWord.word := rfl
@[simp] theorem settle_encFields (s : State) : (settle s).encFields = settledEncFields s.encFields := rfl
@[simp] theorem settle_decText (s : State) : (settle s).decText = settledDecText s.decText.textIn := rfl
@[simp] theorem settle_encText (s : State) : (settle s).encText = settledEncText s.encText.textIn := rfl
@[simp] theorem settle_port (s : State) : (settle s).port = s.port := rfl

/-- The word encoder's settled group, in the terms in which `evalEncFields_eq` and `step_eq` say it. -/
theorem settledEncFields_eq (p : EncFieldsPorts) :
    settledEncFields p = { p with
      word := ((instrOfFields p.kind p.ra p.rb p.rc p.nzp p.imm p.vec).bind encode).getD 0#16
      ok := ((instrOfFields p.kind p.ra p.rb p.rc p.nzp p.imm p.vec).bind encode).isSome } := by
  rw [settledEncFields, codecEncodeFields_eq_encode]
  cases (instrOfFields p.kind p.ra p.rb p.rc p.nzp p.imm p.vec).bind encode <;> rfl

theorem step_eq_settle (s : State) : step s = .next (settle s) := by
  simp only [step_eq, settle, settledEncFields_eq]

theorem eq_settle_of_step {s t : State} (h : step s = .next t) : t = settle s := by
  rw [step_eq_settle] at h
  cases h
  rfl

/-! A settled group keeps its inputs. -/

@[simp] theorem settledDecWord_word (w : Word) : (settledDecWord w).word = w := by
  unfold settledDecWord
  split <;> rfl

@[simp] theorem settledDecText_textIn (raw : Text) : (settledDecText raw).textIn = raw := by
  unfold settledDecText
  split <;> rfl

@[simp] theorem settledEncText_textIn (raw : Text) : (settledEncText raw).textIn = raw := by
  unfold settledEncText
  split <;> rfl

/-- Settling reads only the inputs of the word encoder's group, and they stay. -/
theorem settledEncFields_settledEncFields (p : EncFieldsPorts) :
    settledEncFields (settledEncFields p) = settledEncFields p := by
  simp only [settledEncFields_eq]

theorem sameInputs_settle (s : State) : SameInputs s (settle s) := by
  simp [SameInputs, settledEncFields_eq]

theorem settled_settle (s : State) : Settled (settle s) := by
  simp [Settled, settledEncFields_settledEncFields]

theorem settle_eq_self {s : State} (h : Settled s) : settle s = s := by
  obtain ⟨hdecWord, hencFields, hdecText, hencText⟩ := h
  rw [settle, ← hdecWord, ← hencFields, ← hdecText, ← hencText]

/-- Settles O51: a step answers `settle s`, which is settled and has the inputs of `s`. -/
theorem stepSettlesEveryOutput : Obligations.StepSettlesEveryOutput := by
  intro s t h
  rw [eq_settle_of_step h]
  exact ⟨settled_settle s, sameInputs_settle s⟩

/-- Settles O52: a step answers `settle s`, and settling a settled state changes no group. -/
theorem settledStateIsAFixpoint : Obligations.SettledStateIsAFixpoint := by
  intro s h
  rw [step_eq_settle, settle_eq_self h]

/-- Settles O53: the outputs written into the reset state are the ones a step computes there, so O51 applies to it. -/
theorem resetIsSettled : Obligations.ResetIsSettled := by
  have hstep : step State.reset = .next State.reset := rfl
  exact (stepSettlesEveryOutput _ _ hstep).left

end Sys2Proof.Machine
end

section
/-! PROOF. A step runs, on each group, the instruction that stands on that group's inputs (10_state.md R29, R30;
20_memory.md R44). -/

namespace Sys2Proof.Machine

variable {s : State} {i : Instr} {w : Word}

/-! `exec` of the instruction on a group's inputs is that group's evaluation, so it settles the group. -/

theorem exec_decodeWord_decWord (s : State) :
    exec (decodeWord s.decWord.word) { s with port := .decWord } =
      .next { s with decWord := settledDecWord s.decWord.word, port := .decWord } :=
  evalDecWord_eq s

theorem exec_instrOfFields (h : instrOfFields s.encFields.kind s.encFields.ra s.encFields.rb s.encFields.rc
      s.encFields.nzp s.encFields.imm s.encFields.vec = some i) :
    exec i { s with port := .encFields } =
      .next { s with encFields := settledEncFields s.encFields, port := .encFields } := by
  rw [settledEncFields_eq, ← evalEncFields_eq, evalEncFields, h]

theorem exec_readWord (h : readWord s.decText.textIn = .ok w) :
    exec (decodeWord w) { s with port := .decText } =
      .next { s with decText := settledDecText s.decText.textIn, port := .decText } := by
  rw [← evalDecText_eq, evalDecText, h]

theorem exec_parseLine (h : parseLine s.encText.textIn = .ok i) :
    exec i { s with port := .encText } =
      .next { s with encText := settledEncText s.encText.textIn, port := .encText } := by
  rw [← evalEncText_eq, evalEncText, h]

/-- When only the word decoder's group may be unsettled, settling the block is running the word on `dec_word`. -/
theorem step_eq_exec_decodeWord (hport : s.port = .decWord) (hencFields : s.encFields = settledEncFields s.encFields)
    (hdecText : s.decText = settledDecText s.decText.textIn) (hencText : s.encText = settledEncText s.encText.textIn) :
    step s = exec (decodeWord s.decWord.word) s := by
  have hs : { s with port := .decWord } = s := by rw [← hport]
  calc step s = .next (settle s) := step_eq_settle s
    _ = .next { s with decWord := settledDecWord s.decWord.word, port := .decWord } := by
      rw [settle, ← hencFields, ← hdecText, ← hencText, hport]
    _ = exec (decodeWord s.decWord.word) s := by rw [← exec_decodeWord_decWord, hs]

/-- A word of 16 bits is placed as it stands. -/
theorem withFetchWord_eq (s : State) {n : Nat} (h : n < 65536) :
    s.withFetchWord 16 n = { s with decWord := { s.decWord with word := BitVec.ofNat 16 n } } := by
  have hmod : n % 2 ^ 16 = n := Nat.mod_eq_of_lt h
  rw [State.withFetchWord, hmod, presentWord]

theorem decodeTableWord_withFetchWord (s : State) (n : Nat) :
    decodeTableWord 16 n = some (decodeWord (s.withFetchWord 16 n).decWord.word) := rfl

/-- Settles O55: the table's decoder reads the placed word, and `exec` of it drives what a step settles. -/
theorem stepRunsTheDecodedWord : Obligations.StepRunsTheDecodedWord := by
  refine ⟨fun s n h => ⟨withFetchWord_eq s h, decodeTableWord_withFetchWord s n⟩, fun s => step_eq_exec_decodeWord, ?_⟩
  intro s
  exact ⟨_, _, exec_decodeWord_decWord s, step_eq_settle s, rfl⟩

/-- Settles O56: on each group the step's answer `settle s` is what `exec` of that group's instruction drives. -/
theorem stepRunsEachGroupsInstruction : Obligations.StepRunsEachGroupsInstruction := by
  intro s
  refine ⟨settle s, step_eq_settle s, rfl, ?_, ?_, ?_, ?_⟩
  · exact ⟨_, exec_decodeWord_decWord s, rfl⟩
  · intro i h
    exact ⟨_, exec_instrOfFields h, rfl⟩
  · intro w h
    exact ⟨_, exec_readWord h, rfl⟩
  · intro i h
    exact ⟨_, exec_parseLine h, rfl⟩

end Sys2Proof.Machine
end

section
/-! PROOF. The frame of an instruction: it changes outputs of the group being evaluated alone (10_state.md R20, R23,
R29). -/

namespace Sys2Proof.Machine

variable {s s' : State}

/-- `s'` differs from `s` in no input, not in the bookkeeping, and in no group but the one being evaluated. -/
def ChangesOnlyItsGroup (s s' : State) : Prop :=
  SameInputs s s' ∧ s'.port = s.port ∧
    (s.port ≠ .decWord → s'.decWord = s.decWord) ∧ (s.port ≠ .encFields → s'.encFields = s.encFields) ∧
    (s.port ≠ .decText → s'.decText = s.decText) ∧ (s.port ≠ .encText → s'.encText = s.encText)

theorem changesOnlyItsGroup_of_deliver {t : Translation} (h : deliver t s = .next s') : ChangesOnlyItsGroup s s' := by
  obtain ⟨hport, rfl⟩ | ⟨hport, rfl⟩ | ⟨hport, rfl⟩ | ⟨hport, rfl⟩ := deliver_next h <;>
    simp [ChangesOnlyItsGroup, SameInputs, hport]

theorem changesOnlyItsGroup_of_rejectReserved {opcode : BitVec 4} (h : rejectReserved opcode s = .next s') :
    ChangesOnlyItsGroup s s' := by
  obtain ⟨hport, rfl⟩ | ⟨hport, rfl⟩ | ⟨hport, rfl⟩ | ⟨hport, rfl⟩ := rejectReserved_next h <;>
    simp [ChangesOnlyItsGroup, SameInputs, hport]

/-- Settles O57: an instruction is delivered or, for the reserved opcode, rejected; both keep the frame. -/
theorem execFrame : Obligations.ExecFrame := by
  intro i s s' h
  rw [exec_eq] at h
  cases htranslation : translation i with
  | some t =>
    rw [htranslation] at h
    exact changesOnlyItsGroup_of_deliver h
  | none =>
    rw [htranslation] at h
    exact changesOnlyItsGroup_of_rejectReserved h

end Sys2Proof.Machine
end

section
/-! PROOF. The word decoder's opcode and kind, on success and on failure (10_state.md R27, R31). -/

namespace Sys2Proof.Machine

theorem Kind.code_eq_zero_iff (k : Kind) : k.code = 0#5 ↔ k = .none := by
  cases k <;> decide

theorem translation_kind_ne_none {i : Instr} {t : Translation} (h : translation i = some t) :
    t.record.kind ≠ .none := by
  cases i <;> cases h <;> exact Kind.noConfusion

/-- R31's `dec_opcode`: the record's opcode is the word's, and a failure drives the word's too. -/
theorem settledDecWord_opcode (w : Word) : (settledDecWord w).opcode = w.extractLsb' 12 4 := by
  unfold settledDecWord codecDecodeWord
  cases h : translation (decodeWord w) with
  | some t => exact translation_opcode h
  | none => rfl

theorem settledDecWord_kind_eq_zero_iff (w : Word) : (settledDecWord w).kind = 0#5 ↔ (settledDecWord w).ok = false := by
  unfold settledDecWord codecDecodeWord
  cases h : translation (decodeWord w) with
  | some t => simp [Kind.code_eq_zero_iff, translation_kind_ne_none h]
  | none => simp

/-- Settles O60: a step leaves the word decoder's group settled on `dec_word`. -/
theorem decOpcodeIsAlwaysDriven : Obligations.DecOpcodeIsAlwaysDriven := by
  intro s t h
  rw [eq_settle_of_step h]
  exact ⟨settledDecWord_opcode _, settledDecWord_kind_eq_zero_iff _⟩

end Sys2Proof.Machine
end

section
/-! PROOF. ENCODE_FIELDS in both its spellings, and the reserved opcode as the one illegal encoding (30_encoding.md R64,
R68; 40_codec_operations.md R102). -/

namespace Sys2Proof.Machine

open Sys2Proof.Laws

/-- Settles O39: kind by kind, the concatenation is the OR of the placed fields. -/
theorem layoutsAgreeWithOrCombination : Obligations.LayoutsAgreeWithOrCombination :=
  codecEncodeFields_eq_encode

/-- The per-instruction laws of the family `Opcode`, as one. -/
theorem opcode_statement (i : Instr) : Opcode.Statement i :=
  match i with
  | .addR dr sr1 sr2 => Opcode.addR dr sr1 sr2
  | .addI dr sr1 imm5 => Opcode.addI dr sr1 imm5
  | .andR dr sr1 sr2 => Opcode.andR dr sr1 sr2
  | .andI dr sr1 imm5 => Opcode.andI dr sr1 imm5
  | .brNone off9 => Opcode.brNone off9
  | .brP off9 => Opcode.brP off9
  | .brZ off9 => Opcode.brZ off9
  | .brZP off9 => Opcode.brZP off9
  | .brN off9 => Opcode.brN off9
  | .brNP off9 => Opcode.brNP off9
  | .brNZ off9 => Opcode.brNZ off9
  | .brNZP off9 => Opcode.brNZP off9
  | .jmp base => Opcode.jmp base
  | .ret => Opcode.ret
  | .jsr off11 => Opcode.jsr off11
  | .jsrr base => Opcode.jsrr base
  | .ld dr off9 => Opcode.ld dr off9
  | .ldi dr off9 => Opcode.ldi dr off9
  | .lea dr off9 => Opcode.lea dr off9
  | .ldr dr base off6 => Opcode.ldr dr base off6
  | .notR dr sr => Opcode.notR dr sr
  | .rti => Opcode.rti
  | .st sr off9 => Opcode.st sr off9
  | .sti sr off9 => Opcode.sti sr off9
  | .str sr base off6 => Opcode.str sr base off6
  | .trap vec8 => Opcode.trap vec8
  | .illegal => Opcode.illegal

theorem opcode_eq_reserved_iff (i : Instr) : Opcode.opcode i = 0b1101#4 ↔ i = .illegal := by
  cases i <;> simp [Opcode.opcode]

/-- An encoding has its instruction's opcode, and the one instruction of opcode 1101 has no encoding. -/
theorem opcodeOf_ne_reserved_of_encode {i : Instr} {w : Word} (h : encode i = some w) : opcodeOf w ≠ 0b1101#4 := by
  intro hreserved
  have hopcode : Opcode.opcode i = 0b1101#4 := (opcode_statement i _ w h).symm.trans hreserved
  rw [opcode_eq_reserved_iff] at hopcode
  subst hopcode
  cases h

/-- The words 0xD000 to 0xDFFF are those of opcode 1101. -/
theorem opcodeOf_eq_reserved_iff (w : Word) :
    opcodeOf w = 0b1101#4 ↔ 0xD000 ≤ w.toNat ∧ w.toNat ≤ 0xDFFF := by
  rw [← BitVec.toNat_inj, opcodeOf, BitVec.extractLsb'_toNat, Nat.shiftRight_eq_div_pow]
  have hlt : w.toNat < 65536 := w.isLt
  simp only [BitVec.toNat_ofNat]
  omega

/-- The opcode of an instruction is that of its record, and of the reserved row 1101. -/
theorem opcode_eq_of_translation (i : Instr) :
    Opcode.opcode i = ((translation i).map fun t => t.record.opcode).getD 0b1101#4 := by
  cases i <;> rfl

theorem opcode_decodeWord (w : Word) : Opcode.opcode (decodeWord w) = opcodeOf w :=
  (opcode_eq_of_translation _).trans (decodeWord_opcode w)

theorem decodeWord_eq_illegal_iff (w : Word) : decodeWord w = .illegal ↔ opcodeOf w = 0b1101#4 := by
  rw [← opcode_eq_reserved_iff, opcode_decodeWord]

theorem translation_decodeWord_eq_none_iff (w : Word) :
    translation (decodeWord w) = none ↔ opcodeOf w = 0b1101#4 :=
  (translation_eq_none _).trans (decodeWord_eq_illegal_iff w)

theorem codecDecodeWord_of_reserved {w : Word} (h : opcodeOf w = 0b1101#4) :
    codecDecodeWord w = .error .unknownOpcode := by
  rw [codecDecodeWord, (translation_decodeWord_eq_none_iff w).mpr h]

theorem exists_codecDecodeWord_of_not_reserved {w : Word} (h : opcodeOf w ≠ 0b1101#4) :
    ∃ r, codecDecodeWord w = .ok r := by
  obtain ⟨t, ht⟩ := Option.ne_none_iff_exists'.mp (mt (translation_decodeWord_eq_none_iff w).mp h)
  exact ⟨t.record, by rw [codecDecodeWord, ht]⟩

theorem encode_of_codecEncodeText {line : Text} {w : Word} (h : codecEncodeText line = .ok w) :
    ∃ i, parseLine line = .ok i ∧ encode i = some w := by
  unfold codecEncodeText at h
  cases hparse : parseLine line with
  | error f => simp [hparse] at h
  | ok i =>
    cases hencode : encode i with
    | none => simp [hparse, hencode] at h
    | some v => exact ⟨i, rfl, by simpa [hparse, hencode] using h⟩

/-- Settles O44: the range is opcode 1101, on which alone the decoder has no translation; both encoders answer an
encoding of some instruction. -/
theorem illegalEncodingsAreOneOpcode : Obligations.IllegalEncodingsAreOneOpcode := by
  simp only [Obligations.IllegalEncodingsAreOneOpcode, ← opcodeOf_eq_reserved_iff]
  refine ⟨fun w => ⟨codecDecodeWord_of_reserved, exists_codecDecodeWord_of_not_reserved⟩, ?_, ?_⟩
  · intro kind ra rb rc nzp imm vec w h
    rw [codecEncodeFields_eq_encode, Option.bind_eq_some_iff] at h
    obtain ⟨i, -, hencode⟩ := h
    exact opcodeOf_ne_reserved_of_encode hencode
  · intro line w h
    obtain ⟨i, -, hencode⟩ := encode_of_codecEncodeText h
    exact opcodeOf_ne_reserved_of_encode hencode

end Sys2Proof.Machine
end

section
/-! PROOF. The decoder, one rule for each of its rows (40_codec_operations.md R100). -/

namespace Sys2Proof

/-- `Reads w i`: one rule for each row of the decoder (40_codec_operations.md R100), the eight rows of BR being one. -/
inductive Reads (w : Word) : Instr → Prop where
  | br (h : w.extractLsb' 12 4 = 0b0000#4) : Reads w (brOf (w.extractLsb' 9 3) (sext (w.extractLsb' 0 9)))
  | addR (h : w.extractLsb' 12 4 = 0b0001#4) (h5 : w.getLsbD 5 = false) :
      Reads w (.addR (w.extractLsb' 9 3) (w.extractLsb' 6 3) (w.extractLsb' 0 3))
  | addI (h : w.extractLsb' 12 4 = 0b0001#4) (h5 : w.getLsbD 5 = true) :
      Reads w (.addI (w.extractLsb' 9 3) (w.extractLsb' 6 3) (sext (w.extractLsb' 0 5)))
  | ld (h : w.extractLsb' 12 4 = 0b0010#4) : Reads w (.ld (w.extractLsb' 9 3) (sext (w.extractLsb' 0 9)))
  | st (h : w.extractLsb' 12 4 = 0b0011#4) : Reads w (.st (w.extractLsb' 9 3) (sext (w.extractLsb' 0 9)))
  | jsrr (h : w.extractLsb' 12 4 = 0b0100#4) (h11 : w.getLsbD 11 = false) : Reads w (.jsrr (w.extractLsb' 6 3))
  | jsr (h : w.extractLsb' 12 4 = 0b0100#4) (h11 : w.getLsbD 11 = true) : Reads w (.jsr (sext (w.extractLsb' 0 11)))
  | andR (h : w.extractLsb' 12 4 = 0b0101#4) (h5 : w.getLsbD 5 = false) :
      Reads w (.andR (w.extractLsb' 9 3) (w.extractLsb' 6 3) (w.extractLsb' 0 3))
  | andI (h : w.extractLsb' 12 4 = 0b0101#4) (h5 : w.getLsbD 5 = true) :
      Reads w (.andI (w.extractLsb' 9 3) (w.extractLsb' 6 3) (sext (w.extractLsb' 0 5)))
  | ldr (h : w.extractLsb' 12 4 = 0b0110#4) :
      Reads w (.ldr (w.extractLsb' 9 3) (w.extractLsb' 6 3) (sext (w.extractLsb' 0 6)))
  | str (h : w.extractLsb' 12 4 = 0b0111#4) :
      Reads w (.str (w.extractLsb' 9 3) (w.extractLsb' 6 3) (sext (w.extractLsb' 0 6)))
  | rti (h : w.extractLsb' 12 4 = 0b1000#4) : Reads w .rti
  | notR (h : w.extractLsb' 12 4 = 0b1001#4) : Reads w (.notR (w.extractLsb' 9 3) (w.extractLsb' 6 3))
  | ldi (h : w.extractLsb' 12 4 = 0b1010#4) : Reads w (.ldi (w.extractLsb' 9 3) (sext (w.extractLsb' 0 9)))
  | sti (h : w.extractLsb' 12 4 = 0b1011#4) : Reads w (.sti (w.extractLsb' 9 3) (sext (w.extractLsb' 0 9)))
  | jmp (h : w.extractLsb' 12 4 = 0b1100#4) (hb : w.extractLsb' 6 3 ≠ 7#3) : Reads w (.jmp (w.extractLsb' 6 3))
  | ret (h : w.extractLsb' 12 4 = 0b1100#4) (hb : w.extractLsb' 6 3 = 7#3) : Reads w .ret
  | illegal (h : w.extractLsb' 12 4 = 0b1101#4) : Reads w .illegal
  | lea (h : w.extractLsb' 12 4 = 0b1110#4) : Reads w (.lea (w.extractLsb' 9 3) (sext (w.extractLsb' 0 9)))
  | trap (h : w.extractLsb' 12 4 = 0b1111#4) : Reads w (.trap (w.extractLsb' 0 8))

theorem reads_decodeWord (w : Word) : Reads w (decodeWord w) := by
  have hopcode : ∀ k : Nat, (opcodeOf w).toNat = k → w.extractLsb' 12 4 = BitVec.ofNat 4 k := by
    intro k h
    rw [← h, BitVec.ofNat_toNat, BitVec.setWidth_eq, opcodeOf]
  dsimp only [decodeWord]
  split
  next h => exact .br (hopcode _ h)
  next h =>
    cases h5 : w.getLsbD 5
    · exact .addR (hopcode _ h) h5
    · exact .addI (hopcode _ h) h5
  next h => exact .ld (hopcode _ h)
  next h => exact .st (hopcode _ h)
  next h =>
    cases h11 : w.getLsbD 11
    · exact .jsrr (hopcode _ h) h11
    · exact .jsr (hopcode _ h) h11
  next h =>
    cases h5 : w.getLsbD 5
    · exact .andR (hopcode _ h) h5
    · exact .andI (hopcode _ h) h5
  next h => exact .ldr (hopcode _ h)
  next h => exact .str (hopcode _ h)
  next h => exact .rti (hopcode _ h)
  next h => exact .notR (hopcode _ h)
  next h => exact .ldi (hopcode _ h)
  next h => exact .sti (hopcode _ h)
  next h =>
    split
    next hb => exact .ret (hopcode _ h) hb
    next hb => exact .jmp (hopcode _ h) hb
  next h => exact .lea (hopcode _ h)
  next h => exact .trap (hopcode _ h)
  next =>
    have hlt : (opcodeOf w).toNat < 16 := (opcodeOf w).isLt
    have h : (opcodeOf w).toNat = 13 := by
      simp only [imp_false] at *
      omega
    exact .illegal (hopcode _ h)

end Sys2Proof
end

section
/-! PROOF. Fields of a word and the bits under a mask (30_encoding.md R62, R64). -/

namespace Sys2Proof.Machine

variable {w w' m p : Word} {o : BitVec 4}

/-- A field moved back to its place is the word under the field's mask: bit by bit, below the field both are 0, and
from its lowest bit on both read the word. -/
theorem place_extractLsb' (w : Word) (lo n : Nat) :
    place (w.extractLsb' lo n) lo = w &&& place (BitVec.allOnes n) lo := by
  apply BitVec.eq_of_getLsbD_eq
  intro i hi
  simp only [place, BitVec.getLsbD_shiftLeft, BitVec.getLsbD_setWidth, BitVec.getLsbD_extractLsb', BitVec.getLsbD_and,
    BitVec.getLsbD_allOnes]
  by_cases hlo : i < lo
  · simp [hlo]
  · have hadd : lo + (i - lo) = i := by omega
    rw [hadd]
    ac_rfl

theorem extractLsb'_one (w : Word) (k : Nat) : w.extractLsb' k 1 = BitVec.ofBool (w.getLsbD k) := by
  apply BitVec.eq_of_getLsbD_eq
  intro i hi
  obtain rfl : i = 0 := by omega
  simp

theorem and_opcode_mask (h : w.extractLsb' 12 4 = o) : w &&& place (BitVec.allOnes 4) 12 = place o 12 := by
  rw [← h, place_extractLsb']

/-- One more field known: the mask grows by the field's bits, the pattern by the field's value. -/
theorem and_or_place (h : w &&& m = p) (lo n : Nat) {v : BitVec n} (hv : w.extractLsb' lo n = v) :
    w &&& (m ||| place (BitVec.allOnes n) lo) = p ||| place v lo := by
  rw [BitVec.and_or_distrib_left, h, ← place_extractLsb', hv]

/-- A field that a mask covers is read off the masked word. -/
theorem extractLsb'_of_and_eq (h : w &&& m = p) (lo n : Nat) (hm : m.extractLsb' lo n = BitVec.allOnes n) :
    w.extractLsb' lo n = p.extractLsb' lo n := by
  rw [← h, BitVec.extractLsb'_and, hm, BitVec.and_allOnes]

theorem extractLsb'_eq_of_and_eq (h : w' &&& m = w &&& m) {lo n : Nat}
    (hm : m.extractLsb' lo n = BitVec.allOnes n) : w'.extractLsb' lo n = w.extractLsb' lo n := by
  rw [extractLsb'_of_and_eq h lo n hm, BitVec.extractLsb'_and, hm, BitVec.and_allOnes]

theorem getLsbD_eq_of_and_eq (h : w' &&& m = w &&& m) {k : Nat} (hm : m.extractLsb' k 1 = BitVec.allOnes 1) :
    w'.getLsbD k = w.getLsbD k := by
  rw [BitVec.getLsbD_eq_extractLsb', BitVec.getLsbD_eq_extractLsb', extractLsb'_eq_of_and_eq h hm]

end Sys2Proof.Machine
end

section
/-! PROOF. The opcode table and the decoder select the same row (30_encoding.md R67, R73). -/

namespace Sys2Proof.Machine

variable {w : Word} {r r' : TableRow} {o : BitVec 4}

/-- The row of the table that an instruction belongs to (R73). -/
def rowOf : Instr → TableRow
  | .addR _ _ _ => ⟨chars ['A', 'D', 'D'], .addR, 0xF020#16, 0x1000#16⟩
  | .addI _ _ _ => ⟨chars ['A', 'D', 'D'], .addI, 0xF020#16, 0x1020#16⟩
  | .andR _ _ _ => ⟨chars ['A', 'N', 'D'], .andR, 0xF020#16, 0x5000#16⟩
  | .andI _ _ _ => ⟨chars ['A', 'N', 'D'], .andI, 0xF020#16, 0x5020#16⟩
  | .brNone _ => ⟨chars ['B', 'R', 'n', 'z', 'p'], .br, 0xFE00#16, 0x0000#16⟩
  | .brP _ => ⟨chars ['B', 'R', 'p'], .br, 0xFE00#16, 0x0200#16⟩
  | .brZ _ => ⟨chars ['B', 'R', 'z'], .br, 0xFE00#16, 0x0400#16⟩
  | .brZP _ => ⟨chars ['B', 'R', 'z', 'p'], .br, 0xFE00#16, 0x0600#16⟩
  | .brN _ => ⟨chars ['B', 'R', 'n'], .br, 0xFE00#16, 0x0800#16⟩
  | .brNP _ => ⟨chars ['B', 'R', 'n', 'p'], .br, 0xFE00#16, 0x0A00#16⟩
  | .brNZ _ => ⟨chars ['B', 'R', 'n', 'z'], .br, 0xFE00#16, 0x0C00#16⟩
  | .brNZP _ => ⟨chars ['B', 'R', 'n', 'z', 'p'], .br, 0xFE00#16, 0x0E00#16⟩
  | .jmp _ => ⟨chars ['J', 'M', 'P'], .jmp, 0xF000#16, 0xC000#16⟩
  | .ret => ⟨chars ['R', 'E', 'T'], .ret, 0xF1C0#16, 0xC1C0#16⟩
  | .jsr _ => ⟨chars ['J', 'S', 'R'], .jsr, 0xF800#16, 0x4800#16⟩
  | .jsrr _ => ⟨chars ['J', 'S', 'R', 'R'], .jsrr, 0xF800#16, 0x4000#16⟩
  | .ld _ _ => ⟨chars ['L', 'D'], .ld, 0xF000#16, 0x2000#16⟩
  | .ldi _ _ => ⟨chars ['L', 'D', 'I'], .ldi, 0xF000#16, 0xA000#16⟩
  | .lea _ _ => ⟨chars ['L', 'E', 'A'], .lea, 0xF000#16, 0xE000#16⟩
  | .ldr _ _ _ => ⟨chars ['L', 'D', 'R'], .ldr, 0xF000#16, 0x6000#16⟩
  | .notR _ _ => ⟨chars ['N', 'O', 'T'], .not, 0xF000#16, 0x9000#16⟩
  | .rti => ⟨chars ['R', 'T', 'I'], .rti, 0xF000#16, 0x8000#16⟩
  | .st _ _ => ⟨chars ['S', 'T'], .st, 0xF000#16, 0x3000#16⟩
  | .sti _ _ => ⟨chars ['S', 'T', 'I'], .sti, 0xF000#16, 0xB000#16⟩
  | .str _ _ _ => ⟨chars ['S', 'T', 'R'], .str, 0xF000#16, 0x7000#16⟩
  | .trap _ => ⟨chars ['T', 'R', 'A', 'P'], .trap, 0xF000#16, 0xF000#16⟩
  | .illegal => ⟨[], .none, 0xF000#16, 0xD000#16⟩

theorem rowOf_mem_opcodeTable (i : Instr) : rowOf i ∈ opcodeTable := by
  cases i <;> simp [rowOf, opcodeTable, tableOperate, tableBranch, tableRest]

theorem rowOf_kind (i : Instr) : (rowOf i).kind = kindOf i := by
  cases i <;> rfl

/-- The text begins with the row's mnemonic, in which no space stands; a space or the end follows it (R215). -/
theorem takeWhile_render (i : Instr) : (render i).takeWhile (fun x => x != 0x20#8) = (rowOf i).mnemonic := by
  cases i <;> rfl

/-- Of two rows that agree where both look, the second is the first, or has fewer bits in its mask, or is RET's,
which is heavier than JMP's (R67). -/
theorem opcodeTable_tie_break : ∀ r ∈ opcodeTable, ∀ r' ∈ opcodeTable,
    r.pattern &&& r'.mask = r'.pattern &&& r.mask → r' = r ∨ r'.weight < r.weight ∨ r' = rowOf .ret := by
  decide

theorem compatible_of_selects (h : r.selects w) (h' : r'.selects w) :
    r.pattern &&& r'.mask = r'.pattern &&& r.mask := by
  rw [← show w &&& r.mask = r.pattern from h, ← show w &&& r'.mask = r'.pattern from h', BitVec.and_assoc,
    BitVec.and_assoc, BitVec.and_comm r.mask]

/-- A row that asks for the opcode alone. -/
theorem selects_of_opcode (h : w.extractLsb' 12 4 = o) (hmask : r.mask = place (BitVec.allOnes 4) 12)
    (hpattern : r.pattern = place o 12) : r.selects w := by
  rw [TableRow.selects, hmask, hpattern, and_opcode_mask h]

/-- A row that asks for the opcode and one further field. -/
theorem selects_of_opcode_field {n lo : Nat} {v : BitVec n} (h : w.extractLsb' 12 4 = o) (hv : w.extractLsb' lo n = v)
    (hmask : r.mask = place (BitVec.allOnes 4) 12 ||| place (BitVec.allOnes n) lo)
    (hpattern : r.pattern = place o 12 ||| place v lo) : r.selects w := by
  rw [TableRow.selects, hmask, hpattern, and_or_place (and_opcode_mask h) lo n hv]

/-- A row that asks for the opcode and one further bit. -/
theorem selects_of_opcode_bit {k : Nat} {b : Bool} (h : w.extractLsb' 12 4 = o) (hb : w.getLsbD k = b)
    (hmask : r.mask = place (BitVec.allOnes 4) 12 ||| place (BitVec.allOnes 1) k)
    (hpattern : r.pattern = place o 12 ||| place (BitVec.ofBool b) k) : r.selects w :=
  selects_of_opcode_field h (by rw [extractLsb'_one, hb]) hmask hpattern

theorem rowOf_brOf_selects (h : w.extractLsb' 12 4 = 0b0000#4) (off9 : Int) :
    (rowOf (brOf (w.extractLsb' 9 3) off9)).selects w := by
  have hall : ∀ k : Fin 8, w.extractLsb' 9 3 = BitVec.ofFin k → (rowOf (brOf (BitVec.ofFin k) off9)).selects w := by
    intro k hk
    fin_cases k <;> exact selects_of_opcode_field h hk rfl rfl
  exact hall _ rfl

theorem rowOf_selects_of_reads {i : Instr} (h : Reads w i) : (rowOf i).selects w := by
  cases h with
  | br h => exact rowOf_brOf_selects h _
  | addR h h5 | addI h h5 | andR h h5 | andI h h5 => exact selects_of_opcode_bit h h5 rfl rfl
  | jsr h h11 | jsrr h h11 => exact selects_of_opcode_bit h h11 rfl rfl
  | ret h hb => exact selects_of_opcode_field h hb rfl rfl
  | ld h | ldi h | lea h | st h | sti h | ldr h | str h | notR h | rti h | trap h | illegal h | jmp h =>
    exact selects_of_opcode h rfl rfl

theorem rowOf_decodeWord_selects (w : Word) : (rowOf (decodeWord w)).selects w :=
  rowOf_selects_of_reads (reads_decodeWord w)

theorem decodeWord_eq_ret_of_selects (h : (rowOf .ret).selects w) : decodeWord w = .ret := by
  have hopcode : w.extractLsb' 12 4 = 0b1100#4 := extractLsb'_of_and_eq h 12 4 rfl
  have hbase : w.extractLsb' 6 3 = 7#3 := extractLsb'_of_and_eq h 6 3 rfl
  simp [decodeWord, opcodeOf, hopcode, hbase]

/-- Of the rows that select `w`, the decoder's is the heaviest: where RET's selects, the decoder
gives RET. -/
theorem rowOf_decodeWord_heaviest (hmem : r ∈ opcodeTable) (hsel : r.selects w) :
    r = rowOf (decodeWord w) ∨ r.weight < (rowOf (decodeWord w)).weight := by
  obtain heq | hlt | rfl := opcodeTable_tie_break _ (rowOf_mem_opcodeTable (decodeWord w)) r hmem
    (compatible_of_selects (rowOf_decodeWord_selects w) hsel)
  · exact .inl heq
  · exact .inr hlt
  · exact .inl (by rw [decodeWord_eq_ret_of_selects hsel])

/-- Settles O47: the row is the one the decoded instruction belongs to. -/
theorem opcodeTableIsTheDecoder : Obligations.OpcodeTableIsTheDecoder := by
  intro w
  refine ⟨rowOf (decodeWord w), rowOf_mem_opcodeTable _, rowOf_decodeWord_selects w, ?_, rowOf_kind _, ?_⟩
  · exact fun r hmem hsel => rowOf_decodeWord_heaviest hmem hsel
  · exact fun _ => takeWhile_render _

end Sys2Proof.Machine
end

section
/-! PROOF. Decoding keeps exactly the bits that a word's format names (30_encoding.md R69; 47_properties.md R324). -/

namespace Sys2Proof.Machine

variable {w w' : Word} {i : Instr}

/-- The ignored bits of the words that decode to `i`. -/
def ignoredBitsOf : Instr → Word
  | .addR .. | .andR .. => 0x0018#16
  | .jmp .. | .ret => 0x0E3F#16
  | .jsrr .. => 0x063F#16
  | .notR .. => 0x003F#16
  | .rti | .illegal => 0x0FFF#16
  | .trap .. => 0x0F00#16
  | _ => 0#16

theorem ignoredBitsOf_brOf (nzp : BitVec 3) (off9 : Int) : ignoredBitsOf (brOf nzp off9) = 0#16 := by
  unfold brOf
  split <;> rfl

theorem ignoredBits_of_reads (h : Reads w i) : ignoredBits w = ignoredBitsOf i := by
  cases h with
  | br h =>
    simp only [ignoredBits, h, ignoredBitsOf_brOf]
    rfl
  | addR h h5 | addI h h5 | andR h h5 | andI h h5 =>
    simp only [ignoredBits, h, h5]
    rfl
  | jsr h h11 | jsrr h h11 =>
    simp only [ignoredBits, h, h11]
    rfl
  | ld h | ldi h | lea h | st h | sti h | ldr h | str h | notR h | rti h | trap h | illegal h | jmp h | ret h =>
    simp only [ignoredBits, h]
    rfl

theorem ignoredBits_eq (w : Word) : ignoredBits w = ignoredBitsOf (decodeWord w) :=
  ignoredBits_of_reads (reads_decodeWord w)

/-- The decoder reads nothing but named bits: each of its fields lies outside the ignored ones. -/
theorem decodeWord_eq_of_reads (h : Reads w i) (hw' : w' &&& ~~~ignoredBitsOf i = w &&& ~~~ignoredBitsOf i) :
    decodeWord w' = i := by
  have hfield : ∀ lo n, (~~~ignoredBitsOf i).extractLsb' lo n = BitVec.allOnes n →
      w'.extractLsb' lo n = w.extractLsb' lo n := fun _ _ => extractLsb'_eq_of_and_eq hw'
  have hbit : ∀ k, (~~~ignoredBitsOf i).extractLsb' k 1 = BitVec.allOnes 1 →
      w'.getLsbD k = w.getLsbD k := fun _ => getLsbD_eq_of_and_eq hw'
  cases h
  case br h =>
    rw [ignoredBitsOf_brOf] at hfield
    simp (disch := decide) only [decodeWord, opcodeOf, h, hfield]
    rfl
  all_goals simp only [ignoredBitsOf] at hfield hbit
  case addR h h5 | addI h h5 | andR h h5 | andI h h5 =>
    simp (disch := decide) only [decodeWord, opcodeOf, h, h5, hfield, hbit]
    rfl
  case jsr h h11 | jsrr h h11 =>
    simp (disch := decide) only [decodeWord, opcodeOf, h, h11, hfield, hbit]
    rfl
  case jmp h hb | ret h hb =>
    simp (disch := decide) only [decodeWord, opcodeOf, h, hb, hfield]
    rfl
  case ld h | ldi h | lea h | st h | sti h | ldr h | str h | notR h | rti h | trap h | illegal h =>
    simp (disch := decide) only [decodeWord, opcodeOf, h, hfield] <;> rfl

theorem encodeWith_brOf (fill : BitVec 6) (nzp : BitVec 3) (off9 : Int) :
    encodeWith fill (brOf nzp off9) = some (encodeBr nzp off9) := by
  have hall : ∀ k : Fin 8, encodeWith fill (brOf (BitVec.ofFin k) off9) = some (encodeBr (BitVec.ofFin k) off9) := by
    intro k
    fin_cases k <;> rfl
  exact hall nzp.toFin

/-- When the known bits are all but the ignored ones and the word is no NOT, the pattern is the canonical word. -/
theorem some_eq_named_or_fillBits {m k e : Word} {fill : BitVec 6} (h : w &&& m = e) (hm : m = ~~~k)
    (hnot : w.extractLsb' 12 4 ≠ 0b1001#4) : some e = some (w &&& ~~~k ||| fillBits fill w) := by
  rw [← h, hm, fillBits, if_neg hnot, BitVec.or_zero]

/-- Format by format (R64), the encoder puts the fields that the decoder took out back over the row's pattern. -/
theorem encodeWith_of_reads (fill : BitVec 6) (h : Reads w i) (hi : i ≠ .illegal) :
    encodeWith fill i = some (w &&& ~~~ignoredBitsOf i ||| fillBits fill w) := by
  have hsel : w &&& (rowOf i).mask = (rowOf i).pattern := rowOf_selects_of_reads h
  cases h
  case illegal => contradiction
  case br h =>
    rw [encodeWith_brOf, ignoredBitsOf_brOf]
    have hnzp := and_or_place (and_opcode_mask h) 9 3 rfl
    exact some_eq_named_or_fillBits (and_or_place hnzp 0 9 (trunc_sext _).symm) rfl (by simp [h])
  all_goals
    simp only [rowOf] at hsel
    simp only [ignoredBitsOf]
  case addR h h5 | andR h h5 =>
    have hregs := and_or_place (and_or_place hsel 9 3 rfl) 6 3 rfl
    exact some_eq_named_or_fillBits (and_or_place hregs 0 3 rfl) rfl (by simp [h])
  case addI h h5 | andI h h5 =>
    have hregs := and_or_place (and_or_place (and_opcode_mask h) 9 3 rfl) 6 3 rfl
    have hbit : w.extractLsb' 5 1 = 1#1 := by
      rw [extractLsb'_one, h5]
      rfl
    have hform := and_or_place hregs 5 1 hbit
    exact some_eq_named_or_fillBits (and_or_place hform 0 5 (trunc_sext _).symm) rfl (by simp [h])
  case ld h | ldi h | lea h | st h | sti h =>
    have hreg := and_or_place hsel 9 3 rfl
    exact some_eq_named_or_fillBits (and_or_place hreg 0 9 (trunc_sext _).symm) rfl (by simp [h])
  case ldr h | str h =>
    have hregs := and_or_place (and_or_place hsel 9 3 rfl) 6 3 rfl
    exact some_eq_named_or_fillBits (and_or_place hregs 0 6 (trunc_sext _).symm) rfl (by simp [h])
  case jsr h h11 => exact some_eq_named_or_fillBits (and_or_place hsel 0 11 (trunc_sext _).symm) rfl (by simp [h])
  case jsrr h h11 => exact some_eq_named_or_fillBits (and_or_place hsel 6 3 rfl) rfl (by simp [h])
  case jmp h hb => exact some_eq_named_or_fillBits (and_or_place hsel 6 3 rfl) rfl (by simp [h])
  case ret h hb => exact some_eq_named_or_fillBits hsel rfl (by simp [h])
  case trap h => exact some_eq_named_or_fillBits (and_or_place hsel 0 8 rfl) rfl (by simp [h])
  case rti h => exact some_eq_named_or_fillBits hsel rfl (by simp [h])
  case notR h =>
    have hregs : w &&& ~~~0x003F#16 = 0x9000#16 ||| place (w.extractLsb' 9 3) 9 ||| place (w.extractLsb' 6 3) 6 :=
      and_or_place (and_or_place hsel 9 3 rfl) 6 3 rfl
    rw [hregs, fillBits, if_pos h]
    simp [encodeWith, encodeNot, place]

/-- Encoding a decoded legal word fills its ignored bits and keeps the others (R109). -/
theorem encodeWith_decodeWord (fill : BitVec 6) (hlegal : opcodeOf w ≠ 0b1101#4) :
    encodeWith fill (decodeWord w) = some (canonF fill w) := by
  have hi : decodeWord w ≠ .illegal := mt (decodeWord_eq_illegal_iff w).mp hlegal
  rw [encodeWith_of_reads fill (reads_decodeWord w) hi, canonF, ignoredBits_eq]

/-- The named bits of a word are a function of the instruction it decodes to: its encoding with zeros in the ignored
bits, or, where it has none, the reserved opcode. -/
theorem named_bits_eq (w : Word) :
    w &&& ~~~ignoredBits w = (encodeWith 0#6 (decodeWord w)).getD 0xD000#16 := by
  by_cases hreserved : opcodeOf w = 0b1101#4
  · have hi : decodeWord w = .illegal := (decodeWord_eq_illegal_iff w).mpr hreserved
    have hsel := rowOf_decodeWord_selects w
    rw [ignoredBits_eq, hi]
    rw [hi] at hsel
    exact hsel
  · have hfill : fillBits 0#6 w = 0#16 := ite_self _
    rw [encodeWith_decodeWord 0#6 hreserved, canonF, hfill, BitVec.or_zero, Option.getD_some]

/-- Settles O43: the ignored positions and the named bits are functions of the decoded instruction, and the decoder
reads nothing but the named bits. -/
theorem ignoredBitsDoNotMatter : Obligations.IgnoredBitsDoNotMatter := by
  intro w1 w2
  constructor
  · intro h
    exact ⟨by rw [ignoredBits_eq, ignoredBits_eq, h], by rw [named_bits_eq, named_bits_eq, h]⟩
  · rintro ⟨hignored, hnamed⟩
    have hw2 : w2 &&& ~~~ignoredBits w1 = w1 &&& ~~~ignoredBits w1 := by rw [hnamed, hignored]
    rw [ignoredBits_eq] at hw2
    exact (decodeWord_eq_of_reads (reads_decodeWord w1) hw2).symm

end Sys2Proof.Machine
end

section
/-! PROOF. Signed fields (40_codec_operations.md R101, R104, R105): what `sext` and `trunc` keep, for every width. -/

namespace Sys2Proof

variable {n : Nat} {a : Int}

theorem inRange_iff (lo hi a : Int) : inRange lo hi a = true ↔ lo ≤ a ∧ a ≤ hi := by
  simp [inRange]

theorem sext_trunc_eq_self_iff (hn : 0 < n) (a : Int) :
    sext (trunc n a) = a ↔ -(2 : Int) ^ (n - 1) ≤ a ∧ a < (2 : Int) ^ (n - 1) := by
  constructor
  · intro h
    rw [← h]
    exact ⟨BitVec.le_toInt _, BitVec.toInt_lt⟩
  · rintro ⟨hlo, hhi⟩
    exact BitVec.toInt_ofInt_eq_self hn hlo hhi

/-! The same in the words of `Instr.wellFormed`. -/

theorem inRange_sext (v : BitVec n) : inRange (-(2 : Int) ^ (n - 1)) ((2 : Int) ^ (n - 1) - 1) (sext v) = true :=
  (inRange_iff _ _ _).mpr ⟨BitVec.le_toInt v, BitVec.toInt_le⟩

theorem sext_trunc_of_inRange (n : Nat) (h : inRange (-(2 : Int) ^ (n - 1)) ((2 : Int) ^ (n - 1) - 1) a = true)
    (hn : 0 < n := by decide) : sext (trunc n a) = a := by
  obtain ⟨hlo, hhi⟩ := (inRange_iff _ _ _).mp h
  exact (sext_trunc_eq_self_iff hn a).mpr ⟨hlo, Int.lt_of_le_sub_one hhi⟩

theorem trunc_eq_trunc_iff (n : Nat) (x y : Int) : trunc n x = trunc n y ↔ x % (2 : Int) ^ n = y % (2 : Int) ^ n := by
  rw [← natCast_toNat_trunc, ← natCast_toNat_trunc, Nat.cast_inj, BitVec.toNat_inj]

/-- Settles O3: the signed reading of `n` bits always lies in the range, and there truncation loses nothing. -/
theorem sextOfTruncIsIdentityExactlyInRange : Obligations.SextOfTruncIsIdentityExactlyInRange :=
  fun _ a hn => sext_trunc_eq_self_iff hn a

end Sys2Proof
end

section
/-! PROOF. The fields of an assembled word: each is read back where it was placed, and none reaches into another
(30_encoding.md R62, R64; 40_codec_operations.md R102, R105). -/

namespace Sys2Proof.Machine

variable {w : Word} {n lo : Nat}

@[simp] theorem extractLsb'_place_self (v : BitVec n) (h : lo + n ≤ 16) : (place v lo).extractLsb' lo n = v := by
  apply BitVec.eq_of_getLsbD_eq
  intro k hk
  have hword : lo + k < 16 := by omega
  simp [place, hk, hword]

@[simp] theorem extractLsb'_place_of_disjoint (v : BitVec n) {lo' m : Nat} (h : lo + n ≤ lo' ∨ lo' + m ≤ lo) :
    (place v lo).extractLsb' lo' m = 0#m := by
  apply BitVec.eq_of_getLsbD_eq
  intro k hk
  simp only [place, BitVec.getLsbD_extractLsb', BitVec.getLsbD_shiftLeft, BitVec.getLsbD_setWidth, BitVec.getLsbD_zero]
  obtain habove | hbelow := h
  · have hv : v.getLsbD (lo' + k - lo) = false := BitVec.getLsbD_of_ge _ _ (by omega)
    simp [hv]
  · have hlo : lo' + k < lo := by omega
    simp [hlo]

/-- A field of an OR-combination, from its last placed field on down. -/
@[simp] theorem extractLsb'_or_place (k : Word) (v : BitVec n) (lo' m : Nat) :
    (k ||| place v lo).extractLsb' lo' m = k.extractLsb' lo' m ||| (place v lo).extractLsb' lo' m :=
  BitVec.extractLsb'_or

theorem getLsbD_of_extractLsb' {k : Nat} {b : Bool} (h : w.extractLsb' k 1 = BitVec.ofBool b) : w.getLsbD k = b := by
  rw [BitVec.getLsbD_eq_extractLsb', h]
  cases b <;> rfl

/-- Over bits that leave an immediate's field free, two immediates give one word exactly when they truncate alike. -/
theorem or_place_trunc_eq_iff (n : Nat) {k : Word} {x y : Int} (hk : k.extractLsb' 0 n = 0#n)
    (hn : n ≤ 16 := by decide) :
    k ||| place (trunc n x) 0 = k ||| place (trunc n y) 0 ↔ x % (2 : Int) ^ n = y % (2 : Int) ^ n := by
  rw [← trunc_eq_trunc_iff]
  constructor
  · intro h
    simpa [hk, hn] using congrArg (BitVec.extractLsb' 0 n) h
  · intro h
    rw [h]

/-- Settles O46: every other part of the encoding is placed above the immediate's field. -/
theorem silentTruncation : Obligations.SilentTruncation := by
  intro r b nzp x y
  exact ⟨or_place_trunc_eq_iff 5 (by simp), or_place_trunc_eq_iff 5 (by simp), or_place_trunc_eq_iff 9 (by simp),
    or_place_trunc_eq_iff 9 (by simp), or_place_trunc_eq_iff 9 (by simp), or_place_trunc_eq_iff 9 (by simp),
    or_place_trunc_eq_iff 9 (by simp), or_place_trunc_eq_iff 9 (by simp), or_place_trunc_eq_iff 6 (by simp),
    or_place_trunc_eq_iff 6 (by simp), or_place_trunc_eq_iff 11 (by simp)⟩

end Sys2Proof.Machine
end

section
/-! PROOF. The round trips of the word layer (40_codec_operations.md R101, R109; 47_properties.md R323). -/

namespace Sys2Proof.Machine

open Sys2Proof.Laws

variable {w : Word} {i : Instr} {fill : BitVec 6}

theorem wellFormed_brOf (nzp : BitVec 3) (off9 : Int) : (brOf nzp off9).wellFormed = inRange (-256) 255 off9 := by
  unfold brOf
  split <;> rfl

theorem wellFormed_of_reads (h : Reads w i) (hi : i ≠ .illegal) : i.wellFormed = true := by
  cases h
  case illegal => contradiction
  case br => exact (wellFormed_brOf _ _).trans (inRange_sext _)
  case jmp hb => exact decide_eq_true hb
  case addI | andI | ld | ldi | lea | st | sti | ldr | str | jsr => exact inRange_sext _
  case addR | andR | jsrr | notR | ret | rti | trap => rfl

/-- Settles O45: an immediate is the signed reading of its field, and base 7 is read as RET. -/
theorem decodedInstructionsAreWellFormed : Obligations.DecodedInstructionsAreWellFormed := by
  intro w hlegal
  exact wellFormed_of_reads (reads_decodeWord w) (mt (decodeWord_eq_illegal_iff w).mp hlegal)

theorem exists_encodeWith (fill : BitVec 6) (hwf : i.wellFormed = true) : ∃ w, encodeWith fill i = some w := by
  cases i with
  | illegal => cases hwf
  | _ => exact ⟨_, rfl⟩

theorem reads_encodeBr (nzp : BitVec 3) {off9 : Int} (h : inRange (-256) 255 off9 = true) :
    Reads (encodeBr nzp off9) (brOf nzp off9) := by
  have hopcode : (encodeBr nzp off9).extractLsb' 12 4 = 0b0000#4 := by simp [encodeBr]
  simpa [encodeBr, sext_trunc_of_inRange 9 h] using Reads.br hopcode

/-- An encoding falls under the decoder's row of its instruction: the opcode is the instruction's, the mode bit is as
placed, and each operand is read back from its field, an immediate because it is in range. -/
theorem reads_of_encodeWith (hwf : i.wellFormed = true) (h : encodeWith fill i = some w) : Reads w i := by
  have hopcode : w.extractLsb' 12 4 = Opcode.opcode i := opcode_statement i fill w h
  cases i <;> cases h
  case brNone | brP | brZ | brZP | brN | brNP | brNZ | brNZP => exact reads_encodeBr _ hwf
  case addR dr sr1 sr2 =>
    have h5 : (encodeAddR dr sr1 sr2).getLsbD 5 = false := getLsbD_of_extractLsb' (by simp [encodeAddR])
    simpa [encodeAddR] using Reads.addR hopcode h5
  case andR dr sr1 sr2 =>
    have h5 : (encodeAndR dr sr1 sr2).getLsbD 5 = false := getLsbD_of_extractLsb' (by simp [encodeAndR])
    simpa [encodeAndR] using Reads.andR hopcode h5
  case addI dr sr1 imm5 =>
    have h5 : (encodeAddI dr sr1 imm5).getLsbD 5 = true := getLsbD_of_extractLsb' (by simp [encodeAddI])
    simpa [encodeAddI, sext_trunc_of_inRange 5 hwf] using Reads.addI hopcode h5
  case andI dr sr1 imm5 =>
    have h5 : (encodeAndI dr sr1 imm5).getLsbD 5 = true := getLsbD_of_extractLsb' (by simp [encodeAndI])
    simpa [encodeAndI, sext_trunc_of_inRange 5 hwf] using Reads.andI hopcode h5
  case jsr off11 =>
    have h11 : (encodeJsr off11).getLsbD 11 = true := getLsbD_of_extractLsb' (by simp [encodeJsr])
    simpa [encodeJsr, sext_trunc_of_inRange 11 hwf] using Reads.jsr hopcode h11
  case jsrr base =>
    have h11 : (encodeJsrr base).getLsbD 11 = false := getLsbD_of_extractLsb' (by simp [encodeJsrr])
    simpa [encodeJsrr] using Reads.jsrr hopcode h11
  case ld => simpa [encodeLd, sext_trunc_of_inRange 9 hwf] using Reads.ld hopcode
  case ldi => simpa [encodeLdi, sext_trunc_of_inRange 9 hwf] using Reads.ldi hopcode
  case lea => simpa [encodeLea, sext_trunc_of_inRange 9 hwf] using Reads.lea hopcode
  case st => simpa [encodeSt, sext_trunc_of_inRange 9 hwf] using Reads.st hopcode
  case sti => simpa [encodeSti, sext_trunc_of_inRange 9 hwf] using Reads.sti hopcode
  case ldr => simpa [encodeLdr, sext_trunc_of_inRange 6 hwf] using Reads.ldr hopcode
  case str => simpa [encodeStr, sext_trunc_of_inRange 6 hwf] using Reads.str hopcode
  case jmp base =>
    have hbase : base ≠ 7#3 := of_decide_eq_true hwf
    simpa [encodeJmp] using Reads.jmp hopcode (by simpa [encodeJmp] using hbase)
  case ret => exact .ret hopcode rfl
  case notR => simpa [encodeNot] using Reads.notR hopcode
  case trap => simpa [encodeTrap] using Reads.trap hopcode
  case rti => exact .rti hopcode

theorem decodeWord_of_encodeWith (hwf : i.wellFormed = true) (h : encodeWith fill i = some w) : decodeWord w = i :=
  decodeWord_eq_of_reads (reads_of_encodeWith hwf h) rfl

/-- JMP with base 7, which is not well-formed, shares its word with RET (R153). -/
theorem jmp_seven_roundtrip (fill : BitVec 6) :
    encodeWith fill (.jmp 7#3) = some 0xC1C0#16 ∧ decodeWord 0xC1C0#16 = .ret :=
  ⟨rfl, rfl⟩

/-- Settles O41: a well-formed instruction has an encoding, which falls under its own row of the decoder. -/
theorem decodeInvertsEncode : Obligations.DecodeInvertsEncode := by
  refine ⟨fun fill i hwf => ?_, jmp_seven_roundtrip⟩
  obtain ⟨w, h⟩ := exists_encodeWith fill hwf
  exact ⟨w, h, decodeWord_of_encodeWith hwf h⟩

/-- Settles O42: the encoder puts back the fields that the decoder took out and fills the rest; what the decoder gives
is well-formed (O45), so it survives encoding and decoding. -/
theorem encodeOfDecodeFillsIgnoredBits : Obligations.EncodeOfDecodeFillsIgnoredBits := by
  refine fun fill => ⟨fun w hlegal => encodeWith_decodeWord fill hlegal, fun w v hlegal h => ?_,
    jmp_seven_roundtrip fill⟩
  exact decodeWord_of_encodeWith (decodedInstructionsAreWellFormed w hlegal) h

end Sys2Proof.Machine
end

section
/-! PROOF. The failures of the word layer: the reserved opcode and the undefined kind codes (40_codec_operations.md
R107, R108). -/

namespace Sys2Proof.Machine

theorem codecDecodeWord_error {w : Word} {f : DecFailure} (h : codecDecodeWord w = .error f) : f = .unknownOpcode := by
  unfold codecDecodeWord at h
  split at h
  · cases h
  · exact (Except.error.inj h).symm

theorem codecDecodeWord_eq_unknownOpcode_iff (w : Word) :
    codecDecodeWord w = .error .unknownOpcode ↔ opcodeOf w = 0b1101#4 := by
  refine ⟨fun herror => ?_, codecDecodeWord_of_reserved⟩
  by_contra hlegal
  obtain ⟨r, hok⟩ := exists_codecDecodeWord_of_not_reserved hlegal
  simp [hok] at herror

/-- Settles O16: the decoder has no record exactly for the reserved row, whose meaning drives the failure. -/
theorem reservedOpcodeIsUnknownOpcode : Obligations.ReservedOpcodeIsUnknownOpcode := by
  refine ⟨codecDecodeWord_eq_unknownOpcode_iff, fun _ _ => codecDecodeWord_error,
    fun w => (decodeWord_eq_illegal_iff w).mpr, fun s hport => ?_⟩
  exact (exec_eq .illegal s).trans (rejectReserved_decWord hport)

theorem codecEncodeFields_isSome_iff (kind : BitVec 5) (ra rb rc : Reg) (nzp : BitVec 3) (imm : NativeWord)
    (vec : BitVec 8) :
    (codecEncodeFields kind ra rb rc nzp imm vec).isSome = true ↔ 1 ≤ kind.toNat ∧ kind.toNat ≤ 19 := by
  unfold codecEncodeFields
  generalize kind.toNat = code
  split
  case h_20 =>
    simp only [imp_false, Option.isSome_none, Bool.false_eq_true, false_iff] at *
    omega
  all_goals simp

theorem settledEncFields_ok_iff (p : EncFieldsPorts) :
    (settledEncFields p).ok = true ↔ 1 ≤ p.kind.toNat ∧ p.kind.toNat ≤ 19 := by
  rw [← codecEncodeFields_isSome_iff p.kind p.ra p.rb p.rc p.nzp p.imm p.vec, settledEncFields]
  split <;> simp [*]

theorem settledEncFields_word_of_not_ok {p : EncFieldsPorts} (h : (settledEncFields p).ok = false) :
    (settledEncFields p).word = 0#16 := by
  unfold settledEncFields at h ⊢
  split at h <;> simp_all

/-- Settles O40: a step settles the group, which has a word exactly for the nineteen defined codes. -/
theorem undefinedKindCodeGivesNoWord : Obligations.UndefinedKindCodeGivesNoWord := by
  intro s
  refine ⟨settle s, step_eq_settle s, (settledEncFields_ok_iff _).mpr, fun hkind => ?_⟩
  have hok : (settledEncFields s.encFields).ok = false := by
    rw [← settledEncFields_ok_iff] at hkind
    exact Bool.eq_false_of_not_eq_true hkind
  exact ⟨hok, settledEncFields_word_of_not_ok hok⟩

end Sys2Proof.Machine
end

section
/-! PROOF. From an instruction's translation, its encoding and its family to what the statements about one instruction
speak of: `decodeWord`, `DecodesTo`, `AssemblesTo`, and the outcomes of both encoders. -/

namespace Sys2Proof.Machine

variable {w : Word} {i : Instr}

/-! Decoding. -/

/-- `Reads` is the graph of the decoder: a word under a row decodes to that row's instruction. -/
theorem decodeWord_of_reads (h : Reads w i) : decodeWord w = i :=
  decodeWord_eq_of_reads h rfl

/-- On the decoder's groups an instruction drives the record and the text of its translation. -/
theorem decodesTo_of_translation {t : Translation} (ht : translation i = some t) :
    DecodesTo i t.record.kind.code t.record.opcode t.record.ra t.record.rb t.record.rc t.record.nzp
      (trunc 16 t.record.imm) t.record.vec t.text := by
  intro s
  rw [exec_of_translation i ht]
  exact ⟨deliver_decWord, deliver_decText⟩

/-! Encoding. -/

/-- On the encoder's groups an instruction drives its encoding. -/
theorem assemblesTo_of_encode (h : encode i = some w) : AssemblesTo i w := by
  rw [← translation_word, Option.map_eq_some_iff] at h
  obtain ⟨t, ht, rfl⟩ := h
  intro s
  rw [exec_of_translation i ht]
  exact ⟨deliver_encFields, deliver_encText⟩

theorem codecEncodeFields_of_instrOfFields {kind : BitVec 5} {ra rb rc : Reg} {nzp : BitVec 3} {imm : NativeWord}
    {vec : BitVec 8} (h : instrOfFields kind ra rb rc nzp imm vec = some i) :
    codecEncodeFields kind ra rb rc nzp imm vec = encode i := by
  rw [codecEncodeFields_eq_encode, h, Option.bind_some]

/-- A field at the low end of the word is only widened. -/
theorem place_zero {n : Nat} (v : BitVec n) : place v 0 = v.setWidth 16 := by
  simp [place]

/-- `enc_imm` cut to a field is its low bits (R65). -/
theorem trunc_sext_eq_setWidth {m n : Nat} (v : BitVec n) (h : m ≤ n) : trunc m (sext v) = v.setWidth m := by
  rw [trunc_sext_of_le v h, BitVec.setWidth_eq_extractLsb' h]

/-! Lines. -/

/-- What ENCODE_TEXT makes of the instruction a line writes. -/
def assemble (i : Instr) : Except EncFailure Word :=
  match encode i with
  | some w => .ok w
  | none => .error .unknownMnemonic

theorem codecEncodeText_eq_bind (line : Text) : codecEncodeText line = parseLine line >>= assemble := by
  unfold codecEncodeText
  cases parseLine line <;> rfl

theorem assemble_of_encode (h : encode i = some w) : assemble i = pure w := by
  rw [assemble, h]
  rfl

/-- A signed immediate is its field's token result, read as a signed number. -/
theorem signedTok_eq_map (n : Nat) (t : Text) : signedTok n t = sext <$> immTok n t := rfl

section Lines

variable {line mnemonic : Text} {ops : List Text} {f : Family}
variable (htok : tokens line = mnemonic :: ops) (hfamily : familyOf mnemonic = some f)

include htok hfamily

/-- A line with tokens enough is read by its family's operand rule (R237, R275). -/
theorem codecEncodeText_of_family (hcount : f.minTokens ≤ ops.length + 1) :
    codecEncodeText line = f.parse (mnemonic :: ops) >>= assemble := by
  simp only [codecEncodeText_eq_bind, parseLine, htok, parseTokens, hfamily, if_neg (Nat.not_lt.mpr hcount)]

/-- A line with too few tokens is MissingOperand, whatever they are (R237). -/
theorem codecEncodeText_of_count_lt (hcount : ops.length + 1 < f.minTokens) :
    codecEncodeText line = .error .missingOperand := by
  simp only [codecEncodeText_eq_bind, parseLine, htok, parseTokens, hfamily, if_pos hcount]
  rfl

end Lines

end Sys2Proof.Machine
end

section
/-! PROOF. The operate instructions ADD, AND and NOT are decoded, reported and printed as 41_operate.md R130, R131,
R134, R135 and R138 say. -/

namespace Sys2Proof.Machine

/-- Settles O4: each word falls under its instruction's row of the decoder. -/
theorem writtenOutWordsDecode : Obligations.WrittenOutWordsDecode :=
  ⟨decodeWord_of_reads (.addR rfl rfl), decodeWord_of_reads (.addI rfl rfl), decodeWord_of_reads (.notR rfl),
    decodeWord_of_reads (.br rfl), decodeWord_of_reads (.ret rfl rfl), decodeWord_of_reads (.trap rfl),
    decodeWord_of_reads (.ldr rfl), decodeWord_of_reads (.st rfl)⟩

/-- Settles O5: bit 5 selects the row, and each form's translation holds the ports' values. -/
theorem addDecodes : Obligations.AddDecodes :=
  ⟨fun _ h h5 => decodeWord_of_reads (.addR h h5), fun _ h h5 => decodeWord_of_reads (.addI h h5),
    fun dr sr1 sr2 => decodesTo_of_translation (t := translateAddR dr sr1 sr2) rfl,
    fun dr sr1 imm5 => decodesTo_of_translation (t := translateAddI dr sr1 (sext imm5)) rfl⟩

/-- Settles O6, as O5. -/
theorem andDecodes : Obligations.AndDecodes :=
  ⟨fun _ h h5 => decodeWord_of_reads (.andR h h5), fun _ h h5 => decodeWord_of_reads (.andI h h5),
    fun dr sr1 sr2 => decodesTo_of_translation (t := translateAndR dr sr1 sr2) rfl,
    fun dr sr1 imm5 => decodesTo_of_translation (t := translateAndI dr sr1 (sext imm5)) rfl⟩

/-- Settles O7: the decoder's row of NOT asks for the opcode alone, so bits 5 to 0 do not matter. -/
theorem notDecodes : Obligations.NotDecodes :=
  ⟨fun _ h => decodeWord_of_reads (.notR h),
    fun dr sr => decodesTo_of_translation (t := translateNot dr sr) rfl⟩

end Sys2Proof.Machine
end

section
/-! PROOF. The operate instructions ADD, AND and NOT are assembled, and their lines read, as 41_operate.md R132, R133,
R136, R137 and R139 say. -/

namespace Sys2Proof.Machine

/-! The words, as the rules write them. -/

theorem encode_addR (dr sr1 sr2 : Reg) : encode (.addR dr sr1 sr2) =
    some (0x1000#16 ||| dr.setWidth 16 <<< 9 ||| sr1.setWidth 16 <<< 6 ||| sr2.setWidth 16) := by
  rw [← place_zero sr2]
  rfl

theorem encode_addI (dr sr1 : Reg) (imm5 : Int) : encode (.addI dr sr1 imm5) =
    some (0x1000#16 ||| dr.setWidth 16 <<< 9 ||| sr1.setWidth 16 <<< 6 ||| 1#16 <<< 5 |||
      (trunc 5 imm5).setWidth 16) := by
  rw [← place_zero (trunc 5 imm5)]
  rfl

theorem encode_andR (dr sr1 sr2 : Reg) : encode (.andR dr sr1 sr2) =
    some (0x5000#16 ||| dr.setWidth 16 <<< 9 ||| sr1.setWidth 16 <<< 6 ||| sr2.setWidth 16) := by
  rw [← place_zero sr2]
  rfl

theorem encode_andI (dr sr1 : Reg) (imm5 : Int) : encode (.andI dr sr1 imm5) =
    some (0x5000#16 ||| dr.setWidth 16 <<< 9 ||| sr1.setWidth 16 <<< 6 ||| 1#16 <<< 5 |||
      (trunc 5 imm5).setWidth 16) := by
  rw [← place_zero (trunc 5 imm5)]
  rfl

theorem encodeWith_notR (fill : BitVec 6) (dr sr : Reg) : encodeWith fill (.notR dr sr) =
    some (0x9000#16 ||| dr.setWidth 16 <<< 9 ||| sr.setWidth 16 <<< 6 ||| fill.setWidth 16) := by
  rw [← place_zero fill]
  rfl

/-- With NOT_FILL at the value R7 takes. -/
theorem encode_notR (dr sr : Reg) : encode (.notR dr sr) =
    some (0x9000#16 ||| dr.setWidth 16 <<< 9 ||| sr.setWidth 16 <<< 6 ||| 0b111111#16) :=
  encodeWith_notR Config.notFill dr sr

/-! The lines. -/

/-- ADD and AND read their operands alike: two registers, then, by the third token's first character, a register or an
immediate (R244). The two forms' words stand for whatever the family encodes them to. -/
theorem parseOperate_bind_assemble {regForm : Reg → Reg → Reg → Instr} {immForm : Reg → Reg → Int → Instr}
    {regWord : Reg → Reg → Reg → Word} {immWord : Reg → Reg → BitVec 5 → Word}
    (hreg : ∀ dr sr1 sr2, encode (regForm dr sr1 sr2) = some (regWord dr sr1 sr2))
    (himm : ∀ dr sr1 imm5, encode (immForm dr sr1 imm5) = some (immWord dr sr1 (trunc 5 imm5)))
    (mnemonic t1 t2 t3 : Text) (rest : List Text) :
    parseOperate regForm immForm (mnemonic :: t1 :: t2 :: t3 :: rest) >>= assemble =
      if t3.take 1 = chars ['R'] then do
        let dr ← regTok t1
        let sr1 ← regTok t2
        let sr2 ← regTok t3
        return regWord dr sr1 sr2
      else do
        let dr ← regTok t1
        let sr1 ← regTok t2
        let f ← immTok 5 t3
        return immWord dr sr1 f := by
  have hregWord := fun dr sr1 sr2 => assemble_of_encode (hreg dr sr1 sr2)
  have himmWord := fun dr sr1 imm5 => assemble_of_encode (himm dr sr1 imm5)
  by_cases hR : t3.take 1 = chars ['R']
  · simp [parseOperate, token, hR, hregWord]
  · simp [parseOperate, token, hR, himmWord, signedTok_eq_map]

/-- NOT reads two registers. -/
theorem parseNot_bind_assemble (mnemonic t1 t2 : Text) (rest : List Text) :
    parseNot (mnemonic :: t1 :: t2 :: rest) >>= assemble = do
      let dr ← regTok t1
      let sr ← regTok t2
      return 0x9000#16 ||| dr.setWidth 16 <<< 9 ||| sr.setWidth 16 <<< 6 ||| 0b111111#16 := by
  have hword := fun dr sr => assemble_of_encode (encode_notR dr sr)
  simp [parseNot, token, hword]

/-- Settles O18: every clause reads the word of the form in question off `encode`; the kind code selects the form on
the ports, the third token on a line. -/
theorem addEncodes : Obligations.AddEncodes := by
  refine ⟨fun dr sr1 sr2 => assemblesTo_of_encode (encode_addR dr sr1 sr2),
    fun dr sr1 imm5 => assemblesTo_of_encode (encode_addI dr sr1 imm5), ?_, ?_, ?_, ?_⟩
  · intro ra rb rc nzp imm vec
    exact (codecEncodeFields_of_instrOfFields rfl).trans (encode_addR ra rb rc)
  · intro ra rb rc nzp imm vec
    rw [← trunc_sext_eq_setWidth imm (by decide)]
    exact (codecEncodeFields_of_instrOfFields rfl).trans (encode_addI ra rb (sext imm))
  · intro line t1 t2 t3 rest htok
    rw [codecEncodeText_of_family (f := .add) htok rfl (by simp [Family.minTokens])]
    exact parseOperate_bind_assemble encode_addR encode_addI _ t1 t2 t3 rest
  · intro line ops htok hcount
    exact codecEncodeText_of_count_lt (f := .add) htok rfl (Nat.succ_lt_succ hcount)

/-- Settles O19, as O18. -/
theorem andEncodes : Obligations.AndEncodes := by
  refine ⟨fun dr sr1 sr2 => assemblesTo_of_encode (encode_andR dr sr1 sr2),
    fun dr sr1 imm5 => assemblesTo_of_encode (encode_andI dr sr1 imm5), ?_, ?_, ?_, ?_⟩
  · intro ra rb rc nzp imm vec
    exact (codecEncodeFields_of_instrOfFields rfl).trans (encode_andR ra rb rc)
  · intro ra rb rc nzp imm vec
    rw [← trunc_sext_eq_setWidth imm (by decide)]
    exact (codecEncodeFields_of_instrOfFields rfl).trans (encode_andI ra rb (sext imm))
  · intro line t1 t2 t3 rest htok
    rw [codecEncodeText_of_family (f := .and) htok rfl (by simp [Family.minTokens])]
    exact parseOperate_bind_assemble encode_andR encode_andI _ t1 t2 t3 rest
  · intro line ops htok hcount
    exact codecEncodeText_of_count_lt (f := .and) htok rfl (Nat.succ_lt_succ hcount)

/-- Settles O20: as O18, with one form and the fill in bits 5 to 0. -/
theorem notEncodes : Obligations.NotEncodes := by
  refine ⟨fun dr sr => assemblesTo_of_encode (encode_notR dr sr), encodeWith_notR, ?_, ?_, ?_⟩
  · intro ra rb rc nzp imm vec
    exact (codecEncodeFields_of_instrOfFields rfl).trans (encode_notR ra rb)
  · intro line t1 t2 rest htok
    rw [codecEncodeText_of_family (f := .not) htok rfl (by simp [Family.minTokens])]
    exact parseNot_bind_assemble _ t1 t2 rest
  · intro line ops htok hcount
    exact codecEncodeText_of_count_lt (f := .not) htok rfl (Nat.succ_lt_succ hcount)

end Sys2Proof.Machine
end

section
/-! PROOF. The control instructions BR, JMP, RET, JSR, JSRR, RTI and TRAP are decoded, reported and printed as
42_control.md R150, R152, R154, R156, R158, R160 and R162 say. -/

namespace Sys2Proof.Machine

/-! BR: the eight rows are one row, in their n, z, p bits. -/

/-- A word whose bits 15 to 9 are opcode 0000 and then these n, z, p bits is that row's BR. -/
theorem decodeWord_of_nzp {w : Word} (nzp : BitVec 3) (h : w.extractLsb' 9 7 = 0b0000#4 ++ nzp) :
    decodeWord w = brOf nzp (sext (w.extractLsb' 0 9)) := by
  have happend : w.extractLsb' 12 4 ++ w.extractLsb' 9 3 = 0b0000#4 ++ nzp :=
    (BitVec.extractLsb'_append_extractLsb'_eq_extractLsb' rfl).trans h
  have hopcode : w.extractLsb' 12 4 = 0b0000#4 := by
    simpa only [BitVec.extractLsb'_append_eq_left] using congrArg (BitVec.extractLsb' 3 4) happend
  have hnzp : w.extractLsb' 9 3 = nzp := by
    simpa only [BitVec.extractLsb'_append_eq_right] using congrArg (BitVec.extractLsb' 0 3) happend
  rw [decodeWord_of_reads (.br hopcode), hnzp]

theorem translation_brOf (nzp : BitVec 3) (off9 : Int) : translation (brOf nzp off9) = some
    { record := { kind := .br, opcode := 0b0000#4, nzp := nzp, imm := off9 }
      text := asmText (brMnemonic nzp) [immText off9]
      word := encodeBr nzp off9 } := by
  have hall : ∀ k : Fin 8, translation (brOf (BitVec.ofFin k) off9) = some
      { record := { kind := .br, opcode := 0b0000#4, nzp := BitVec.ofFin k, imm := off9 }
        text := asmText (brMnemonic (BitVec.ofFin k)) [immText off9]
        word := encodeBr (BitVec.ofFin k) off9 } := by
    intro k
    fin_cases k <;> rfl
  exact hall nzp.toFin

/-- Every row reports its bits on `nzp` and its offset on `imm`, and is printed with their suffix (R150, R219). -/
theorem decodesTo_brOf (nzp : BitVec 3) (off9 : BitVec 9) :
    DecodesTo (brOf nzp (sext off9)) 5#5 0b0000#4 0#3 0#3 0#3 nzp (off9.signExtend 16) 0#8
      (brMnemonic nzp ++ chars [' '] ++ immText (sext off9)) :=
  decodesTo_of_translation (translation_brOf nzp (sext off9))

/-- Settles O8: each clause is the one row of BR at the clause's n, z, p bits. -/
theorem brDecodes : Obligations.BrDecodes :=
  ⟨fun _ => ⟨decodeWord_of_nzp 0b000#3, decodeWord_of_nzp 0b001#3, decodeWord_of_nzp 0b010#3, decodeWord_of_nzp 0b011#3,
      decodeWord_of_nzp 0b100#3, decodeWord_of_nzp 0b101#3, decodeWord_of_nzp 0b110#3, decodeWord_of_nzp 0b111#3⟩,
    fun off9 => ⟨decodesTo_brOf 0b000#3 off9, decodesTo_brOf 0b001#3 off9, decodesTo_brOf 0b010#3 off9,
      decodesTo_brOf 0b011#3 off9, decodesTo_brOf 0b100#3 off9, decodesTo_brOf 0b101#3 off9,
      decodesTo_brOf 0b110#3 off9, decodesTo_brOf 0b111#3 off9⟩⟩

/-! The others. -/

/-- Settles O9: bits 8 to 6 select the row. What a JMP drives does not hang on its base being other than 7. -/
theorem jmpAndRetDecode : Obligations.JmpAndRetDecode :=
  ⟨fun _ h hb => decodeWord_of_reads (.jmp h hb), fun _ h hb => decodeWord_of_reads (.ret h hb),
    fun base _ => decodesTo_of_translation (t := translateJmp base) rfl,
    decodesTo_of_translation (t := translateRet) rfl⟩

/-- Settles O10: bit 11 selects the row. -/
theorem jsrAndJsrrDecode : Obligations.JsrAndJsrrDecode :=
  ⟨fun _ h h11 => decodeWord_of_reads (.jsr h h11), fun _ h h11 => decodeWord_of_reads (.jsrr h h11),
    fun off11 => decodesTo_of_translation (t := translateJsr (sext off11)) rfl,
    fun base => decodesTo_of_translation (t := translateJsrr base) rfl⟩

/-- Settles O11: the decoder's row of RTI asks for the opcode alone. -/
theorem rtiDecodes : Obligations.RtiDecodes :=
  ⟨fun _ h => decodeWord_of_reads (.rti h), decodesTo_of_translation (t := translateRti) rfl⟩

/-- The two digits of a vector are those of its high and its low four bits. -/
theorem hex2_eq_nibbles (v : BitVec 8) :
    hex2 v = [hexCode (v.extractLsb' 4 4).toNat, hexCode (v.extractLsb' 0 4).toNat] := by
  have hhigh : (v.extractLsb' 4 4).toNat = v.toNat / 16 := by
    rw [BitVec.extractLsb'_toNat, Nat.shiftRight_eq_div_pow]
    exact Nat.mod_eq_of_lt (by omega)
  have hlow : (v.extractLsb' 0 4).toNat = v.toNat % 16 := by
    rw [BitVec.extractLsb'_toNat, Nat.shiftRight_zero]
  rw [hex2, hhigh, hlow]

/-- Settles O12: the decoder's row of TRAP asks for the opcode alone, and the vector is printed by its two nibbles. -/
theorem trapDecodes : Obligations.TrapDecodes := by
  refine ⟨fun _ h => decodeWord_of_reads (.trap h), fun vec8 => ?_, by decide, by decide⟩
  rw [← hex2_eq_nibbles]
  exact decodesTo_of_translation (t := translateTrap vec8) rfl

end Sys2Proof.Machine
end

section
/-! PROOF. The control instructions BR, JMP, RET, JSR, JSRR, RTI and TRAP are assembled, and their lines read, as
42_control.md R151, R153, R155, R157, R159, R161 and R163 say. -/

namespace Sys2Proof.Machine

/-! The words, as the rules write them. -/

/-- The eight rows of BR have one word, in their n, z, p bits. -/
theorem encode_brOf_eq_or (nzp : BitVec 3) (off9 : Int) : encode (brOf nzp off9) =
    some (0x0000#16 ||| nzp.setWidth 16 <<< 9 ||| (trunc 9 off9).setWidth 16) := by
  rw [encode_brOf, ← place_zero (trunc 9 off9)]
  rfl

theorem encode_jmp (base : Reg) : encode (.jmp base) = some (0xC000#16 ||| base.setWidth 16 <<< 6) := rfl

theorem encode_ret : encode .ret = some 0xC1C0#16 := rfl

theorem encode_jsr (off11 : Int) : encode (.jsr off11) =
    some (0x4000#16 ||| 1#16 <<< 11 ||| (trunc 11 off11).setWidth 16) := by
  rw [← place_zero (trunc 11 off11)]
  rfl

theorem encode_jsrr (base : Reg) : encode (.jsrr base) = some (0x4000#16 ||| base.setWidth 16 <<< 6) := rfl

theorem encode_rti : encode .rti = some 0x8000#16 := rfl

theorem encode_trap (vec8 : BitVec 8) : encode (.trap vec8) = some (0xF000#16 ||| vec8.setWidth 16) := by
  rw [← place_zero vec8]
  rfl

/-! The operands of a line. The word stands for whatever the family encodes its operand to. -/

/-- JMP and JSRR read one register. -/
theorem parseBase_bind_assemble {form : Reg → Instr} {word : Reg → Word}
    (hform : ∀ base, encode (form base) = some (word base)) (mnemonic t1 : Text) (rest : List Text) :
    parseBase form (mnemonic :: t1 :: rest) >>= assemble = do
      let base ← regTok t1
      return word base := by
  have hword := fun base => assemble_of_encode (hform base)
  simp [parseBase, token, hword]

/-- BR and JSR read one signed immediate, of which the word holds the field. -/
theorem parseOffset_bind_assemble {n : Nat} {form : Int → Instr} {word : BitVec n → Word}
    (hform : ∀ off, encode (form off) = some (word (trunc n off))) (mnemonic t1 : Text) (rest : List Text) :
    parseOffset n form (mnemonic :: t1 :: rest) >>= assemble = do
      let f ← immTok n t1
      return word f := by
  have hword := fun off => assemble_of_encode (hform off)
  simp [parseOffset, token, hword, signedTok_eq_map]

/-- TRAP reads one immediate, unsigned. -/
theorem parseTrap_bind_assemble (mnemonic t1 : Text) (rest : List Text) :
    parseTrap (mnemonic :: t1 :: rest) >>= assemble = do
      let f ← immTok 8 t1
      return 0xF000#16 ||| f.setWidth 16 := by
  have hword := fun vec8 => assemble_of_encode (encode_trap vec8)
  simp [parseTrap, token, hword]

/-! BR's first token. -/

/-- A line whose first token names no family is UnknownMnemonic, whatever follows (R235, R275). -/
theorem codecEncodeText_of_familyOf_none {line mnemonic : Text} {ops : List Text}
    (htok : tokens line = mnemonic :: ops) (hfamily : familyOf mnemonic = none) :
    codecEncodeText line = .error .unknownMnemonic := by
  simp only [codecEncodeText_eq_bind, parseLine, htok, parseTokens, hfamily]
  rfl

/-- After `BR` the suffix alone decides (R236). -/
theorem familyOf_br (suffix : Text) :
    familyOf (chars ['B', 'R'] ++ suffix) = (brSuffixBits suffix).map Family.br := rfl

theorem brSuffixBits_of_mem {suffix : Text} {nzp : BitVec 3} (h : (suffix, nzp) ∈ brSuffixes) :
    brSuffixBits suffix = some nzp := by
  have hall : ∀ p ∈ brSuffixes, brSuffixBits p.1 = some p.2 := by decide
  exact hall _ h

theorem brSuffixBits_of_not_mem {suffix : Text} (h : suffix ∉ brSuffixes.map Prod.fst) : brSuffixBits suffix = none := by
  rw [brSuffixBits, Option.map_eq_none_iff, List.find?_eq_none]
  intro p hp heq
  exact h (List.mem_map.mpr ⟨p, hp, eq_of_beq heq⟩)

theorem assemblesTo_brOf (off9 : Int) (nzp : BitVec 3) : AssemblesTo (brOf nzp off9)
    (0x0000#16 ||| nzp.setWidth 16 <<< 9 ||| (trunc 9 off9).setWidth 16) :=
  assemblesTo_of_encode (encode_brOf_eq_or nzp off9)

/-- Settles O21: the rows' words are one in their n, z, p bits; on a line the suffix gives the bits, or no family. -/
theorem brEncodes : Obligations.BrEncodes := by
  refine ⟨fun off9 => ?rows, ?fields, ?accepted, ?refused⟩
  case rows =>
    have hrow := assemblesTo_brOf off9
    exact ⟨hrow 0b000#3, hrow 0b001#3, hrow 0b010#3, hrow 0b011#3, hrow 0b100#3, hrow 0b101#3, hrow 0b110#3,
      hrow 0b111#3⟩
  case fields =>
    intro ra rb rc nzp imm vec
    rw [← trunc_sext_eq_setWidth imm (by decide)]
    exact (codecEncodeFields_of_instrOfFields rfl).trans (encode_brOf_eq_or nzp (sext imm))
  case accepted =>
    intro suffix nzp hmem
    have hfamily : familyOf (chars ['B', 'R'] ++ suffix) = some (.br nzp) := by
      rw [familyOf_br, brSuffixBits_of_mem hmem, Option.map_some]
    constructor
    · intro line t1 rest htok
      rw [codecEncodeText_of_family htok hfamily (Nat.le_add_left 2 rest.length)]
      exact parseOffset_bind_assemble (encode_brOf_eq_or nzp) _ t1 rest
    · intro line htok
      exact codecEncodeText_of_count_lt htok hfamily (Nat.lt_succ_self 1)
  case refused =>
    intro suffix line ops hnot htok
    refine codecEncodeText_of_familyOf_none htok ?_
    rw [familyOf_br, brSuffixBits_of_not_mem hnot, Option.map_none]

/-! The others: every clause reads the word off `encode`. -/

/-- Settles O22: a line of JMP gives its base, a line of RET has no operand to read. -/
theorem jmpAndRetEncode : Obligations.JmpAndRetEncode := by
  refine ⟨fun base => assemblesTo_of_encode (encode_jmp base), assemblesTo_of_encode encode_ret,
    fun ra rb rc nzp imm vec => (codecEncodeFields_of_instrOfFields rfl).trans (encode_jmp rb),
    fun ra rb rc nzp imm vec => (codecEncodeFields_of_instrOfFields rfl).trans encode_ret, ?_, ?_, ?_,
    encode_jmp 7#3, decodeWord_of_reads (.ret rfl rfl)⟩
  · intro line t1 rest htok
    rw [codecEncodeText_of_family (f := .jmp) htok rfl (Nat.le_add_left 2 rest.length)]
    exact parseBase_bind_assemble encode_jmp _ t1 rest
  · intro line ops htok hcount
    exact codecEncodeText_of_count_lt (f := .jmp) htok rfl (Nat.succ_lt_succ hcount)
  · intro line ops htok
    rw [codecEncodeText_of_family (f := .ret) htok rfl (Nat.le_add_left 1 ops.length)]
    exact assemble_of_encode encode_ret

/-- Settles O23: JSR's one operand is an offset, JSRR's a register. -/
theorem jsrAndJsrrEncode : Obligations.JsrAndJsrrEncode := by
  refine ⟨fun off11 => assemblesTo_of_encode (encode_jsr off11), fun base => assemblesTo_of_encode (encode_jsrr base),
    ?_, fun ra rb rc nzp imm vec => (codecEncodeFields_of_instrOfFields rfl).trans (encode_jsrr rb), ?_, ?_, ?_, ?_⟩
  · intro ra rb rc nzp imm vec
    rw [← trunc_sext_eq_setWidth imm (by decide)]
    exact (codecEncodeFields_of_instrOfFields rfl).trans (encode_jsr (sext imm))
  · intro line t1 rest htok
    rw [codecEncodeText_of_family (f := .jsr) htok rfl (Nat.le_add_left 2 rest.length)]
    exact parseOffset_bind_assemble encode_jsr _ t1 rest
  · intro line ops htok hcount
    exact codecEncodeText_of_count_lt (f := .jsr) htok rfl (Nat.succ_lt_succ hcount)
  · intro line t1 rest htok
    rw [codecEncodeText_of_family (f := .jsrr) htok rfl (Nat.le_add_left 2 rest.length)]
    exact parseBase_bind_assemble encode_jsrr _ t1 rest
  · intro line ops htok hcount
    exact codecEncodeText_of_count_lt (f := .jsrr) htok rfl (Nat.succ_lt_succ hcount)

/-- Settles O24: the word is fixed, and a line of RTI has no operand to read. -/
theorem rtiEncodes : Obligations.RtiEncodes := by
  refine ⟨assemblesTo_of_encode encode_rti,
    fun ra rb rc nzp imm vec => (codecEncodeFields_of_instrOfFields rfl).trans encode_rti, ?_⟩
  intro line ops htok
  rw [codecEncodeText_of_family (f := .rti) htok rfl (Nat.le_add_left 1 ops.length)]
  exact assemble_of_encode encode_rti

/-- Settles O25: the vector comes from `vec`, or from the line's token. -/
theorem trapEncodes : Obligations.TrapEncodes := by
  refine ⟨fun vec8 => assemblesTo_of_encode (encode_trap vec8),
    fun ra rb rc nzp imm vec => (codecEncodeFields_of_instrOfFields rfl).trans (encode_trap vec), ?_, ?_⟩
  · intro line t1 rest htok
    rw [codecEncodeText_of_family (f := .trap) htok rfl (Nat.le_add_left 2 rest.length)]
    exact parseTrap_bind_assemble _ t1 rest
  · intro line ops htok hcount
    exact codecEncodeText_of_count_lt (f := .trap) htok rfl (Nat.succ_lt_succ hcount)

end Sys2Proof.Machine
end

section
/-! PROOF. The data movement instructions LD, LDI, LDR, LEA, ST, STI and STR are decoded, reported and printed as
43_data_movement.md R180, R182, R184, R186, R188, R190 and R192 say. -/

namespace Sys2Proof.Machine

/-- Settles O13: the opcode alone selects each row, and each translation holds the ports' values. -/
theorem loadsDecode : Obligations.LoadsDecode :=
  ⟨fun _ h => decodeWord_of_reads (.ld h), fun _ h => decodeWord_of_reads (.ldi h),
    fun _ h => decodeWord_of_reads (.lea h),
    fun dr off9 => decodesTo_of_translation (t := translateLd dr (sext off9)) rfl,
    fun dr off9 => decodesTo_of_translation (t := translateLdi dr (sext off9)) rfl,
    fun dr off9 => decodesTo_of_translation (t := translateLea dr (sext off9)) rfl⟩

/-- Settles O14, as O13; a store's translation holds its source register on `ra`. -/
theorem storesDecode : Obligations.StoresDecode :=
  ⟨fun _ h => decodeWord_of_reads (.st h), fun _ h => decodeWord_of_reads (.sti h),
    fun sr off9 => decodesTo_of_translation (t := translateSt sr (sext off9)) rfl,
    fun sr off9 => decodesTo_of_translation (t := translateSti sr (sext off9)) rfl⟩

/-- Settles O15, as O13. -/
theorem ldrAndStrDecode : Obligations.LdrAndStrDecode :=
  ⟨fun _ h => decodeWord_of_reads (.ldr h), fun _ h => decodeWord_of_reads (.str h),
    fun dr base off6 => decodesTo_of_translation (t := translateLdr dr base (sext off6)) rfl,
    fun sr base off6 => decodesTo_of_translation (t := translateStr sr base (sext off6)) rfl⟩

end Sys2Proof.Machine
end

section
/-! PROOF. The data movement instructions LD, LDI, LDR, LEA, ST, STI and STR are assembled, and their lines read, as
43_data_movement.md R181, R183, R185, R187, R189, R191 and R193 say. They have two formats, and each format's rules are
proved once, for whichever of its instructions. -/

namespace Sys2Proof.Machine

variable {opcode : Word} {kind : BitVec 5} {mnemonic : Text} {f : Family}

/-! A register and an offset9: LD, LDI, LEA, ST and STI. -/

/-- The word of the format, as the rules write it. -/
def regOffsetWord (opcode : Word) (r : Reg) (off9 : BitVec 9) : Word :=
  opcode ||| r.setWidth 16 <<< 9 ||| off9.setWidth 16

theorem or_place_eq_regOffsetWord (opcode : Word) (r : Reg) (off9 : BitVec 9) :
    opcode ||| place r 9 ||| place off9 0 = regOffsetWord opcode r off9 := by
  rw [place_zero]
  rfl

theorem parseRegOffset_bind_assemble {form : Reg → Int → Instr} {word : Reg → BitVec 9 → Word}
    (hform : ∀ r off9, encode (form r off9) = some (word r (trunc 9 off9))) (mnemonic t1 t2 : Text) (rest : List Text) :
    parseRegOffset form (mnemonic :: t1 :: t2 :: rest) >>= assemble = do
      let r ← regTok t1
      let off9 ← immTok 9 t2
      return word r off9 := by
  have hword := fun r off9 => assemble_of_encode (hform r off9)
  simp [parseRegOffset, token, hword, signedTok_eq_map]

/-- What the rules ask of an instruction of this format (R181): its word on the encoder's groups, ENCODE_FIELDS for its
kind, and its lines, with operands enough and with too few. -/
structure RegOffsetEncodes (form : Reg → Int → Instr) (opcode : Word) (kind : BitVec 5) (mnemonic : Text) : Prop where
  assembles : ∀ (r : Reg) (off9 : Int), AssemblesTo (form r off9) (regOffsetWord opcode r (trunc 9 off9))
  fields : ∀ (ra rb rc : Reg) (nzp : BitVec 3) (imm : NativeWord) (vec : BitVec 8),
    codecEncodeFields kind ra rb rc nzp imm vec = some (regOffsetWord opcode ra (imm.setWidth 9))
  line : ∀ (line t1 t2 : Text) (rest : List Text), tokens line = mnemonic :: t1 :: t2 :: rest →
    codecEncodeText line = do
      let r ← regTok t1
      let off9 ← immTok 9 t2
      return regOffsetWord opcode r off9
  short : ∀ (line : Text) (ops : List Text), tokens line = mnemonic :: ops → ops.length < 2 →
    codecEncodeText line = .error .missingOperand

/-- An instruction keeps the format's rules when its encoder places the two fields, its kind takes them from the ports,
and its mnemonic's family reads them. -/
theorem regOffsetEncodes {form : Reg → Int → Instr}
    (hform : ∀ r off9, encode (form r off9) = some (opcode ||| place r 9 ||| place (trunc 9 off9) 0))
    (hfields : ∀ ra rb rc nzp imm vec, instrOfFields kind ra rb rc nzp imm vec = some (form ra (sext imm)))
    (hfamily : familyOf mnemonic = some f) (hmin : f.minTokens = 3)
    (hparse : ∀ tok, f.parse tok = parseRegOffset form tok) : RegOffsetEncodes form opcode kind mnemonic := by
  simp only [or_place_eq_regOffsetWord] at hform
  refine ⟨fun r off9 => assemblesTo_of_encode (hform r off9), ?fields, ?line, ?short⟩
  case fields =>
    intro ra rb rc nzp imm vec
    rw [codecEncodeFields_of_instrOfFields (hfields ra rb rc nzp imm vec), hform, trunc_sext_eq_setWidth imm (by decide)]
  case line =>
    intro line t1 t2 rest htok
    have hcount : f.minTokens ≤ (t1 :: t2 :: rest).length + 1 := hmin ▸ Nat.le_add_left 3 rest.length
    rw [codecEncodeText_of_family htok hfamily hcount, hparse]
    exact parseRegOffset_bind_assemble hform mnemonic t1 t2 rest
  case short =>
    intro line ops htok hcount
    exact codecEncodeText_of_count_lt htok hfamily (hmin ▸ Nat.succ_lt_succ hcount)

/-! Two registers and an offset6: LDR and STR. -/

/-- The word of the format, as the rules write it. -/
def regBaseOffsetWord (opcode : Word) (r base : Reg) (off6 : BitVec 6) : Word :=
  opcode ||| r.setWidth 16 <<< 9 ||| base.setWidth 16 <<< 6 ||| off6.setWidth 16

theorem or_place_eq_regBaseOffsetWord (opcode : Word) (r base : Reg) (off6 : BitVec 6) :
    opcode ||| place r 9 ||| place base 6 ||| place off6 0 = regBaseOffsetWord opcode r base off6 := by
  rw [place_zero]
  rfl

/-- The third operand is an immediate, whatever its first character. -/
theorem parseRegBaseOffset_bind_assemble {form : Reg → Reg → Int → Instr} {word : Reg → Reg → BitVec 6 → Word}
    (hform : ∀ r base off6, encode (form r base off6) = some (word r base (trunc 6 off6)))
    (mnemonic t1 t2 t3 : Text) (rest : List Text) :
    parseRegBaseOffset form (mnemonic :: t1 :: t2 :: t3 :: rest) >>= assemble = do
      let r ← regTok t1
      let base ← regTok t2
      let off6 ← immTok 6 t3
      return word r base off6 := by
  have hword := fun r base off6 => assemble_of_encode (hform r base off6)
  simp [parseRegBaseOffset, token, hword, signedTok_eq_map]

/-- What the rules ask of an instruction of this format (R185), as `RegOffsetEncodes`. -/
structure RegBaseOffsetEncodes (form : Reg → Reg → Int → Instr) (opcode : Word) (kind : BitVec 5) (mnemonic : Text) :
    Prop where
  assembles : ∀ (r base : Reg) (off6 : Int),
    AssemblesTo (form r base off6) (regBaseOffsetWord opcode r base (trunc 6 off6))
  fields : ∀ (ra rb rc : Reg) (nzp : BitVec 3) (imm : NativeWord) (vec : BitVec 8),
    codecEncodeFields kind ra rb rc nzp imm vec = some (regBaseOffsetWord opcode ra rb (imm.setWidth 6))
  line : ∀ (line t1 t2 t3 : Text) (rest : List Text), tokens line = mnemonic :: t1 :: t2 :: t3 :: rest →
    codecEncodeText line = do
      let r ← regTok t1
      let base ← regTok t2
      let off6 ← immTok 6 t3
      return regBaseOffsetWord opcode r base off6
  short : ∀ (line : Text) (ops : List Text), tokens line = mnemonic :: ops → ops.length < 3 →
    codecEncodeText line = .error .missingOperand

/-- As `regOffsetEncodes`, with the base register between the two fields. -/
theorem regBaseOffsetEncodes {form : Reg → Reg → Int → Instr}
    (hform : ∀ r base off6, encode (form r base off6) =
      some (opcode ||| place r 9 ||| place base 6 ||| place (trunc 6 off6) 0))
    (hfields : ∀ ra rb rc nzp imm vec, instrOfFields kind ra rb rc nzp imm vec = some (form ra rb (sext imm)))
    (hfamily : familyOf mnemonic = some f) (hmin : f.minTokens = 4)
    (hparse : ∀ tok, f.parse tok = parseRegBaseOffset form tok) : RegBaseOffsetEncodes form opcode kind mnemonic := by
  simp only [or_place_eq_regBaseOffsetWord] at hform
  refine ⟨fun r base off6 => assemblesTo_of_encode (hform r base off6), ?fields, ?line, ?short⟩
  case fields =>
    intro ra rb rc nzp imm vec
    rw [codecEncodeFields_of_instrOfFields (hfields ra rb rc nzp imm vec), hform, trunc_sext_eq_setWidth imm (by decide)]
  case line =>
    intro line t1 t2 t3 rest htok
    have hcount : f.minTokens ≤ (t1 :: t2 :: t3 :: rest).length + 1 := hmin ▸ Nat.le_add_left 4 rest.length
    rw [codecEncodeText_of_family htok hfamily hcount, hparse]
    exact parseRegBaseOffset_bind_assemble hform mnemonic t1 t2 t3 rest
  case short =>
    intro line ops htok hcount
    exact codecEncodeText_of_count_lt htok hfamily (hmin ▸ Nat.succ_lt_succ hcount)

/-! The instructions. -/

theorem ld_encodes : RegOffsetEncodes .ld 0x2000#16 10#5 (chars ['L', 'D']) :=
  regOffsetEncodes (f := .ld) (fun _ _ => rfl) (fun _ _ _ _ _ _ => rfl) rfl rfl (fun _ => rfl)

theorem ldi_encodes : RegOffsetEncodes .ldi 0xA000#16 11#5 (chars ['L', 'D', 'I']) :=
  regOffsetEncodes (f := .ldi) (fun _ _ => rfl) (fun _ _ _ _ _ _ => rfl) rfl rfl (fun _ => rfl)

theorem lea_encodes : RegOffsetEncodes .lea 0xE000#16 13#5 (chars ['L', 'E', 'A']) :=
  regOffsetEncodes (f := .lea) (fun _ _ => rfl) (fun _ _ _ _ _ _ => rfl) rfl rfl (fun _ => rfl)

theorem st_encodes : RegOffsetEncodes .st 0x3000#16 16#5 (chars ['S', 'T']) :=
  regOffsetEncodes (f := .st) (fun _ _ => rfl) (fun _ _ _ _ _ _ => rfl) rfl rfl (fun _ => rfl)

theorem sti_encodes : RegOffsetEncodes .sti 0xB000#16 17#5 (chars ['S', 'T', 'I']) :=
  regOffsetEncodes (f := .sti) (fun _ _ => rfl) (fun _ _ _ _ _ _ => rfl) rfl rfl (fun _ => rfl)

theorem ldr_encodes : RegBaseOffsetEncodes .ldr 0x6000#16 12#5 (chars ['L', 'D', 'R']) :=
  regBaseOffsetEncodes (f := .ldr) (fun _ _ _ => rfl) (fun _ _ _ _ _ _ => rfl) rfl rfl (fun _ => rfl)

theorem str_encodes : RegBaseOffsetEncodes .str 0x7000#16 18#5 (chars ['S', 'T', 'R']) :=
  regBaseOffsetEncodes (f := .str) (fun _ _ _ => rfl) (fun _ _ _ _ _ _ => rfl) rfl rfl (fun _ => rfl)

/-- Settles O26: the three loads are of the format of a register and an offset9. -/
theorem loadsEncode : Obligations.LoadsEncode :=
  ⟨ld_encodes.assembles, ld_encodes.fields, ld_encodes.line, ld_encodes.short,
    ldi_encodes.assembles, ldi_encodes.fields, ldi_encodes.line, ldi_encodes.short,
    lea_encodes.assembles, lea_encodes.fields, lea_encodes.line, lea_encodes.short⟩

/-- Settles O27: the two stores are of the same format as the loads. -/
theorem storesEncode : Obligations.StoresEncode :=
  ⟨st_encodes.assembles, st_encodes.fields, st_encodes.line, st_encodes.short,
    sti_encodes.assembles, sti_encodes.fields, sti_encodes.line, sti_encodes.short⟩

/-- Settles O28: LDR and STR are of the format of two registers and an offset6. -/
theorem ldrAndStrEncode : Obligations.LdrAndStrEncode :=
  ⟨ldr_encodes.assembles, ldr_encodes.fields, ldr_encodes.line, ldr_encodes.short,
    str_encodes.assembles, str_encodes.fields, str_encodes.line, str_encodes.short⟩

end Sys2Proof.Machine
end

section
/-! PROOF. What DECODE_TEXT answers, from its raw input to the canonical text of the word it reads (44_text_decode.md
R210 to R214). -/

namespace Sys2Proof.Machine

variable {raw : Text} {w : Word}

/-! Normalisation (R211). -/

theorem stripPrefix_append (rest : Text) : stripPrefix (chars ['0', 'b'] ++ rest) = rest :=
  if_pos rfl

theorem stripPrefix_eq_self (h : ∀ rest, raw ≠ chars ['0', 'b'] ++ rest) : stripPrefix raw = raw := by
  refine if_neg fun htake => h (raw.drop 2) ?_
  rw [← htake, List.take_append_drop]

theorem not_isWs_eq (b : Byte) :
    (!isWs b) = decide (b ≠ 0x20#8 ∧ b ≠ 0x09#8 ∧ b ≠ 0x0A#8 ∧ b ≠ 0x0D#8) := by
  simp [isWs, Config.ws]

theorem normalise_eq_filter (raw : Text) : normalise raw = (stripPrefix raw).filter fun x =>
    decide (x ≠ 0x20#8 ∧ x ≠ 0x09#8 ∧ x ≠ 0x0A#8 ∧ x ≠ 0x0D#8) := by
  simp only [normalise, not_isWs_eq]

/-- Settles O29: only what is stripped depends on how the string begins; what is filtered out does not. -/
theorem decoderInputIsNormalised : Obligations.DecoderInputIsNormalised := by
  constructor
  · intro rest
    rw [normalise_eq_filter, stripPrefix_append]
  · intro raw h
    rw [normalise_eq_filter, stripPrefix_eq_self h]

/-! The value of a digit string (R213). -/

theorem binValue_concat (s : Text) (b : Byte) : binValue (s ++ [b]) = Nat.bit (decide (b = 0x31#8)) (binValue s) := by
  simp [binValue, Nat.bit_val, Bool.toNat, Bool.cond_decide]

/-- Bit `i` of the value is written by the character `i` places before the last. -/
theorem testBit_binValue (s : Text) (i : Nat) : (binValue s).testBit i = decide (s.reverse[i]? = some 0x31#8) := by
  induction s using List.reverseRecOn generalizing i with
  | nil => simp [binValue]
  | append_singleton s b ih =>
    rw [binValue_concat, List.reverse_concat]
    cases i with
    | zero => simp
    | succ i => rw [Nat.testBit_bit_succ, ih, List.getElem?_cons_succ]

/-- The word that sixteen characters write, the first at bit 15. -/
theorem ofNat_binValue_eq {s : Text} (hlen : s.length = 16)
    (hw : ∀ k < 16, (w.getLsbD (15 - k) = true ↔ s[k]? = some 0x31#8)) : BitVec.ofNat 16 (binValue s) = w := by
  apply BitVec.eq_of_getLsbD_eq
  intro i hi
  have hbit : w.getLsbD i = true ↔ s[15 - i]? = some 0x31#8 := by
    rw [← hw (15 - i) (by omega), Nat.sub_sub_self (by omega)]
  rw [BitVec.getLsbD_ofNat, testBit_binValue, List.getElem?_reverse (by omega), hlen, Bool.eq_iff_iff, hbit]
  simp [hi]

/-! The three outcomes of reading a word, in the order of the tests (R212, R213, R274). -/

theorem all_isBinDigit_iff (s : Text) : s.all isBinDigit = true ↔ ∀ x ∈ s, x = 0x30#8 ∨ x = 0x31#8 := by
  simp only [isBinDigit, List.all_eq_true, Bool.or_eq_true, decide_eq_true_eq]

theorem readWord_of_width (hlen : (normalise raw).length ≠ 16) : readWord raw = .error .malformedWidth :=
  if_pos hlen

theorem readWord_of_not_digits (hlen : (normalise raw).length = 16)
    (hdigits : ∃ x ∈ normalise raw, x ≠ 0x30#8 ∧ x ≠ 0x31#8) : readWord raw = .error .malformedDigits := by
  have hall : ¬ (normalise raw).all isBinDigit = true := by
    simpa only [all_isBinDigit_iff, not_forall, not_or, exists_prop] using hdigits
  rw [readWord, if_neg (not_not.mpr hlen), if_neg hall]

theorem readWord_of_digits (hlen : (normalise raw).length = 16)
    (hdigits : ∀ x ∈ normalise raw, x = 0x30#8 ∨ x = 0x31#8) :
    readWord raw = .ok (BitVec.ofNat 16 (binValue (normalise raw))) := by
  rw [readWord, if_neg (not_not.mpr hlen), if_pos ((all_isBinDigit_iff _).mpr hdigits)]

/-! From the word read to the outcome (R210, R214). -/

theorem render_of_translation {i : Instr} {t : Translation} (h : translation i = some t) : render i = t.text := by
  rw [render, h]

theorem codecDecodeText_of_error {f : DecFailure} (h : readWord raw = .error f) : codecDecodeText raw = .error f := by
  rw [codecDecodeText, h]

theorem codecDecodeText_of_ok (h : readWord raw = .ok w) : codecDecodeText raw =
    if opcodeOf w = 0b1101#4 then .error .unknownOpcode else .ok (render (decodeWord w)) := by
  simp only [codecDecodeText, h, ← translation_decodeWord_eq_none_iff]
  cases ht : translation (decodeWord w) with
  | none => rfl
  | some t => simp [render_of_translation ht]

/-- Settles O30: one case for each outcome of reading the word, which the digits determine bit by bit. -/
theorem decodeTextOutcome : Obligations.DecodeTextOutcome := by
  intro raw
  refine ⟨fun hlen => codecDecodeText_of_error (readWord_of_width hlen), ?_, ?_⟩
  · intro hlen hdigits
    exact codecDecodeText_of_error (readWord_of_not_digits hlen hdigits)
  · intro hlen hdigits w hw
    rw [← ofNat_binValue_eq hlen hw]
    exact codecDecodeText_of_ok (readWord_of_digits hlen hdigits)

/-- Settles O17: the reserved row has no translation, so it is rejected on whichever group is evaluated. -/
theorem reservedOpcodeOnTheOtherGroups : Obligations.ReservedOpcodeOnTheOtherGroups := by
  intro s
  have hexec : exec .illegal s = rejectReserved 0b1101#4 s := exec_eq .illegal s
  rw [hexec]
  exact ⟨rejectReserved_decText, rejectReserved_encFields, rejectReserved_encText⟩

end Sys2Proof.Machine
end

section
/-! PROOF. How registers, immediates and vectors are printed (44_text_decode.md R216 to R218). -/

namespace Sys2Proof.Machine

theorem immText_natCast (n : Nat) : immText (n : Int) = chars ['#'] ++ natText n :=
  if_neg (by omega)

theorem immText_neg_natCast {n : Nat} (hn : 0 < n) : immText (-(n : Int)) = chars ['#', '-'] ++ natText n := by
  have hneg : -(n : Int) < 0 := by omega
  rw [immText, if_pos hneg, Int.natAbs_neg, Int.natAbs_natCast]

/-- Fuel above `n` is enough for every digit of `n`. -/
theorem natDigits_eq_map_digits {fuel n : Nat} (hn : 0 < n) (hfuel : n < fuel) :
    natDigits fuel n = (Nat.digits 10 n).reverse.map digitCode := by
  induction fuel generalizing n with
  | zero => omega
  | succ fuel ih =>
    rw [natDigits]
    split
    next hlt => rw [Nat.digits_of_lt 10 n (by omega) hlt]; rfl
    next hge =>
      rw [ih (by omega) (by omega), Nat.digits_def' (by decide) hn, List.reverse_cons, List.map_append]
      rfl

/-- The numeral is that of Mathlib's digits, which stand least significant first. -/
theorem natText_eq_map_digits {n : Nat} (hn : 0 < n) : natText n = (Nat.digits 10 n).reverse.map digitCode :=
  natDigits_eq_map_digits hn n.lt_succ_self

theorem head?_reverse_digits_ne_zero {n : Nat} (hn : 0 < n) : (Nat.digits 10 n).reverse.head? ≠ some 0 := by
  rw [List.head?_reverse, List.getLast?_eq_some_getLast (Nat.digits_ne_nil_iff_ne_zero.mpr hn.ne')]
  exact fun h => Nat.getLast_digit_ne_zero 10 hn.ne' (Option.some.inj h)

theorem foldl_reverse_digits (n : Nat) : (Nat.digits 10 n).reverse.foldl (fun acc d => acc * 10 + d) 0 = n := by
  calc (Nat.digits 10 n).reverse.foldl (fun acc d => acc * 10 + d) 0
      = (Nat.digits 10 n).foldr (fun d acc => acc * 10 + d) 0 := List.foldl_reverse
    _ = Nat.ofDigits 10 (Nat.digits 10 n) := by simp only [Nat.ofDigits_eq_foldr, add_comm, mul_comm, Nat.cast_id]
    _ = n := Nat.ofDigits_digits 10 n

/-- Settles O31: a positive numeral is Mathlib's digits, most significant first. -/
theorem printedOperands : Obligations.PrintedOperands := by
  refine ⟨fun _ => rfl, immText_natCast, fun _ => immText_neg_natCast, rfl, ?_, hex2_eq_nibbles, by decide,
    by decide⟩
  intro n hn
  refine ⟨(Nat.digits 10 n).reverse, ?_, head?_reverse_digits_ne_zero hn, foldl_reverse_digits n,
    natText_eq_map_digits hn⟩
  intro d hd
  exact Nat.digits_lt_base (by decide) (List.mem_reverse.mp hd)

end Sys2Proof.Machine
end

section
/-! PROOF. How long canonical text is, and the codes it is made of (44_text_decode.md R221), part by part. -/

namespace Sys2Proof.Machine

variable {lo hi lo' hi' : Nat} {mnemonic t t' a b c : Text}

/-- A code from 0x20 to 0x7A (R221). -/
def isTextCode (x : Byte) : Bool := decide (0x20 ≤ x.toNat) && decide (x.toNat ≤ 0x7A)

theorem isTextCode_iff (x : Byte) : isTextCode x = true ↔ 0x20 ≤ x.toNat ∧ x.toNat ≤ 0x7A := by
  simp [isTextCode]

/-- `t` has `lo` to `hi` characters, all of them codes of canonical text. -/
structure ShortAscii (lo hi : Nat) (t : Text) : Prop where
  le_length : lo ≤ t.length
  length_le : t.length ≤ hi
  all_code : t.all isTextCode = true

theorem ShortAscii.mono (h : ShortAscii lo hi t) (hlo : lo' ≤ lo) (hhi : hi ≤ hi') : ShortAscii lo' hi' t :=
  ⟨hlo.trans h.le_length, h.length_le.trans hhi, h.all_code⟩

theorem ShortAscii.append (h : ShortAscii lo hi t) (h' : ShortAscii lo' hi' t') :
    ShortAscii (lo + lo') (hi + hi') (t ++ t') := by
  refine ⟨?_, ?_, ?_⟩
  · exact (add_le_add h.le_length h'.le_length).trans List.length_append.ge
  · exact List.length_append.le.trans (add_le_add h.length_le h'.length_le)
  · rw [List.all_append, h.all_code, h'.all_code, Bool.and_self]

theorem shortAscii_of_codes (t : Text) (h : t.all isTextCode = true := by decide) :
    ShortAscii t.length t.length t :=
  ⟨le_rfl, le_rfl, h⟩

/-! The operands. -/

theorem isTextCode_digitCode : ∀ d < 10, isTextCode (digitCode d) = true := by
  decide

theorem isTextCode_hexCode : ∀ d < 16, isTextCode (hexCode d) = true := by
  decide

theorem shortAscii_singleton {x : Byte} (h : isTextCode x = true) : ShortAscii 1 1 [x] :=
  ⟨le_rfl, le_rfl, by rw [List.all_cons, h, List.all_nil, Bool.and_self]⟩

theorem shortAscii_regText (k : Reg) : ShortAscii 2 2 (regText k) :=
  have hk : k.toNat < 10 := k.isLt.trans (by decide)
  (shortAscii_of_codes (chars ['R'])).append (shortAscii_singleton (isTextCode_digitCode _ hk))

theorem shortAscii_vecText (v : BitVec 8) : ShortAscii 3 3 (vecText v) := by
  rw [vecText, hex2_eq_nibbles]
  exact (shortAscii_of_codes (chars ['x'])).append <|
    (shortAscii_singleton (isTextCode_hexCode _ (BitVec.isLt _))).append
      (shortAscii_singleton (isTextCode_hexCode _ (BitVec.isLt _)))

/-- A number below `10 ^ k` has at most `k` digits, and 0 has one. -/
theorem shortAscii_natText {k n : Nat} (hk : 0 < k) (hn : n < 10 ^ k) : ShortAscii 1 k (natText n) := by
  obtain rfl | hpos := n.eq_zero_or_pos
  · exact (shortAscii_of_codes (chars ['0'])).mono le_rfl hk
  · rw [natText_eq_map_digits hpos]
    refine ⟨?_, ?_, ?_⟩
    · rw [List.length_map, List.length_reverse, Nat.succ_le_iff, List.length_pos_iff]
      exact Nat.digits_ne_nil_iff_ne_zero.mpr hpos.ne'
    · rw [List.length_map, List.length_reverse]
      exact (Nat.digits_length_le_iff (by decide) n).mpr hn
    · rw [List.all_map, List.all_reverse, List.all_eq_true]
      exact fun d hd => isTextCode_digitCode d (Nat.digits_lt_base (by decide) hd)

/-- An immediate of at most `k` digits, after `#` and perhaps `-`. -/
theorem shortAscii_immText (k : Nat) {min max v : Int} (h : inRange min max v = true)
    (hmin : -(10 : Int) ^ k < min := by decide) (hmax : max < (10 : Int) ^ k := by decide) (hk : 0 < k := by decide) :
    ShortAscii 2 (2 + k) (immText v) := by
  obtain ⟨hlo, hhi⟩ := (inRange_iff _ _ _).mp h
  have hn : v.natAbs < 10 ^ k := by
    zify
    exact abs_lt.mpr ⟨by omega, by omega⟩
  unfold immText
  split
  · exact ((shortAscii_of_codes (chars ['#', '-'])).append (shortAscii_natText hk hn)).mono (by decide) le_rfl
  · exact ((shortAscii_of_codes (chars ['#'])).append (shortAscii_natText hk hn)).mono le_rfl
      (Nat.add_le_add_right (by decide) k)

/-! The whole text: mnemonic, then no operand to three. -/

theorem shortAscii_brMnemonic (nzp : BitVec 3) : ShortAscii 3 5 (brMnemonic nzp) := by
  have hall : ∀ nzp : BitVec 3, 3 ≤ (brMnemonic nzp).length ∧ (brMnemonic nzp).length ≤ 5 ∧
      (brMnemonic nzp).all isTextCode = true := by decide
  obtain ⟨hlo, hhi, hcodes⟩ := hall nzp
  exact ⟨hlo, hhi, hcodes⟩

section Operands

variable {loA hiA loB hiB loC hiC : Nat}

theorem ShortAscii.asmText_one (hm : ShortAscii lo hi mnemonic) (ha : ShortAscii loA hiA a) :
    ShortAscii (lo + 1 + loA) (hi + 1 + hiA) (asmText mnemonic [a]) :=
  (hm.append (shortAscii_of_codes (chars [' ']))).append ha

theorem ShortAscii.separated (ha : ShortAscii loA hiA a) (hb : ShortAscii loB hiB b) :
    ShortAscii (loA + 2 + loB) (hiA + 2 + hiB) (comma a b) :=
  (ha.append (shortAscii_of_codes (chars [',', ' ']))).append hb

theorem ShortAscii.asmText_two (hm : ShortAscii lo hi mnemonic) (ha : ShortAscii loA hiA a)
    (hb : ShortAscii loB hiB b) :
    ShortAscii (lo + 1 + (loA + 2 + loB)) (hi + 1 + (hiA + 2 + hiB)) (asmText mnemonic [a, b]) :=
  (hm.append (shortAscii_of_codes (chars [' ']))).append (ha.separated hb)

theorem ShortAscii.asmText_three (hm : ShortAscii lo hi mnemonic) (ha : ShortAscii loA hiA a)
    (hb : ShortAscii loB hiB b) (hc : ShortAscii loC hiC c) :
    ShortAscii (lo + 1 + (loA + 2 + (loB + 2 + loC))) (hi + 1 + (hiA + 2 + (hiB + 2 + hiC)))
      (asmText mnemonic [a, b, c]) :=
  (hm.append (shortAscii_of_codes (chars [' ']))).append (ha.separated (hb.separated hc))

end Operands

/-- The formats with their widest operands: three of them after `ADD`, the last `#-16`, fill the sixteen characters. -/
theorem shortAscii_render {i : Instr} (hwf : i.wellFormed = true) : ShortAscii 3 16 (render i) := by
  cases i with
  | illegal => cases hwf
  | ret | rti => exact (shortAscii_of_codes _).mono (by decide) (by decide)
  | jmp | jsrr =>
    exact ((shortAscii_of_codes _).asmText_one (shortAscii_regText _)).mono (by decide) (by decide)
  | trap => exact ((shortAscii_of_codes _).asmText_one (shortAscii_vecText _)).mono (by decide) (by decide)
  | jsr => exact ((shortAscii_of_codes _).asmText_one (shortAscii_immText 4 hwf)).mono (by decide) (by decide)
  | brNone | brP | brZ | brZP | brN | brNP | brNZ | brNZP =>
    exact ((shortAscii_brMnemonic _).asmText_one (shortAscii_immText 3 hwf)).mono (by decide) (by decide)
  | notR =>
    exact ((shortAscii_of_codes _).asmText_two (shortAscii_regText _) (shortAscii_regText _)).mono
      (by decide) (by decide)
  | ld | ldi | lea | st | sti =>
    exact ((shortAscii_of_codes _).asmText_two (shortAscii_regText _) (shortAscii_immText 3 hwf)).mono
      (by decide) (by decide)
  | addR | andR =>
    exact ((shortAscii_of_codes _).asmText_three (shortAscii_regText _) (shortAscii_regText _)
      (shortAscii_regText _)).mono (by decide) (by decide)
  | addI | andI | ldr | str =>
    exact ((shortAscii_of_codes _).asmText_three (shortAscii_regText _) (shortAscii_regText _)
      (shortAscii_immText 2 hwf)).mono (by decide) (by decide)

/-- Settles O32: each bound is the sum of its parts' bounds; evaluating the two named texts shows that both are
reached. -/
theorem canonicalTextIsShortAscii : Obligations.CanonicalTextIsShortAscii := by
  refine ⟨fun i hwf => ?_, by decide, by decide⟩
  obtain ⟨hlo, hhi, hcodes⟩ := shortAscii_render hwf
  exact ⟨hlo, hhi, fun x hx => (isTextCode_iff x).mp (List.all_eq_true.mp hcodes x hx)⟩

end Sys2Proof.Machine
end

section
/-! PROOF. The tokens of a line (45_text_encode.md R231 to R233). -/

namespace Sys2Proof.Machine

variable {x : Byte} {u : Text}

/-- Once upper-cased and rid of commas, a line's whitespace is what its separators were (R231 to R233). -/
theorem isWs_commaToSpace_upperCode_iff : ∀ x : Byte, isWs (commaToSpace (upperCode x)) = true ↔ x ∈ separators := by
  decide

theorem commaToSpace_upperCode_of_not_mem :
    ∀ x : Byte, x ∉ separators → commaToSpace (upperCode x) = upperCode x := by
  decide

/-- Upper-casing as R231 writes it. -/
theorem upperCode_eq_ite : ∀ x : Byte, upperCode x =
    if 0x61 ≤ x.toNat ∧ x.toNat ≤ 0x7A then BitVec.ofNat 8 (x.toNat - 0x20) else x := by
  decide

/-- A whitespace code ends the run before it, and no run goes past it. -/
theorem splitRuns_append_cons (hx : isWs x = true) (a b cur : Text) :
    splitRuns (a ++ x :: b) cur = splitRuns a cur ++ splitRuns b [] := by
  induction a generalizing cur with
  | nil =>
    cases cur with
    | nil => simp [splitRuns, hx]
    | cons c cs => simp [splitRuns, hx]
  | cons y a ih =>
    simp only [List.cons_append, splitRuns, ih]
    split
    · split <;> rfl
    · rfl

/-- Codes that are not whitespace only lengthen the run being read. -/
theorem splitRuns_of_not_isWs (h : ∀ x ∈ u, ¬ isWs x = true) (cur : Text) :
    splitRuns u cur = splitRuns [] (u.reverse ++ cur) := by
  induction u generalizing cur with
  | nil => rfl
  | cons x u ih =>
    obtain ⟨hx, hu⟩ := List.forall_mem_cons.mp h
    calc splitRuns (x :: u) cur = splitRuns u (x :: cur) := if_neg hx
      _ = splitRuns [] ((x :: u).reverse ++ cur) := by rw [ih hu, List.reverse_cons, List.append_cons]

theorem tokens_append_cons (a b : Text) (hx : x ∈ separators) : tokens (a ++ x :: b) = tokens a ++ tokens b := by
  rw [tokens, List.map_append, List.map_cons, splitRuns_append_cons ((isWs_commaToSpace_upperCode_iff x).mpr hx)]
  rfl

/-- A run of codes that separate nothing, which a line reads as one token. -/
structure IsRun (u : Text) : Prop where
  ne_nil : u ≠ []
  not_mem : ∀ x ∈ u, x ∉ separators

theorem tokens_of_isRun (h : IsRun u) : tokens u = [u.map upperCode] := by
  obtain ⟨hne, hsep⟩ := h
  have hmap : (u.map fun x => commaToSpace (upperCode x)) = u.map upperCode :=
    List.map_congr_left fun x hx => commaToSpace_upperCode_of_not_mem x (hsep x hx)
  have hws : ∀ x ∈ u.map fun x => commaToSpace (upperCode x), ¬ isWs x = true := by
    intro x hx
    obtain ⟨y, hy, rfl⟩ := List.mem_map.mp hx
    exact mt (isWs_commaToSpace_upperCode_iff y).mp (hsep y hy)
  rw [tokens, splitRuns_of_not_isWs hws, hmap]
  simp [splitRuns, hne]

/-- Settles O33: a separator is what whitespace comes from, and the other codes only lengthen a run. -/
theorem tokensOfALine : Obligations.TokensOfALine := by
  refine ⟨rfl, fun a b x hx => tokens_append_cons a b hx, fun u hne hsep => ?_⟩
  rw [tokens_of_isRun ⟨hne, hsep⟩]
  simp only [← upperCode_eq_ite]

end Sys2Proof.Machine
end

section
/-! PROOF. The numbers and the operand tokens that a line can write (45_text_encode.md R239 to R243). -/

namespace Sys2Proof.Machine

variable {base m : Nat} {isCode : Byte → Bool} {code : Nat → Byte} {s t : Text}

/-- The codes that `isCode` accepts are exactly those of the digits below `base`, and `digitValue` reads them. -/
structure DigitCodes (base : Nat) (isCode : Byte → Bool) (code : Nat → Byte) : Prop where
  isCode_code : ∀ d < base, isCode (code d) = true
  digitValue_code : ∀ d < base, digitValue (code d) = d
  digitValue_lt : ∀ x, isCode x = true → digitValue x < base
  code_digitValue : ∀ x, isCode x = true → code (digitValue x) = x

theorem decimal_digitCodes : DigitCodes 10 isDigit digitCode :=
  ⟨by decide, by decide, by decide, by decide⟩

theorem hexadecimal_digitCodes : DigitCodes 16 isHexDigit hexCode :=
  ⟨by decide, by decide, by decide, by decide⟩

theorem digitsValue_map (h : DigitCodes base isCode code) {ds : List Nat} (hds : ∀ d ∈ ds, d < base) :
    digitsValue base (ds.map code) = ds.foldl (fun acc d => acc * base + d) 0 := by
  rw [digitsValue, List.foldl_map]
  exact List.foldl_ext _ _ _ fun acc d hd => by rw [h.digitValue_code d (hds d hd)]

/-- A numeral is the codes of a non-empty list of digits. -/
theorem numeral_iff (h : DigitCodes base isCode code) :
    (s ≠ [] ∧ s.all isCode = true) ∧ digitsValue base s = m ↔
      ∃ ds : List Nat, ds ≠ [] ∧ (∀ d ∈ ds, d < base) ∧ s = ds.map code ∧
        m = ds.foldl (fun acc d => acc * base + d) 0 := by
  constructor
  · rintro ⟨⟨hne, hall⟩, hvalue⟩
    have hcodes : ∀ x ∈ s, isCode x = true := List.all_eq_true.mp hall
    have hlt : ∀ d ∈ s.map digitValue, d < base :=
      List.forall_mem_map.mpr fun x hx => h.digitValue_lt x (hcodes x hx)
    have hs : (s.map digitValue).map code = s := by
      rw [List.map_map]
      exact (List.map_congr_left fun x hx => h.code_digitValue x (hcodes x hx)).trans (List.map_id s)
    exact ⟨s.map digitValue, by simpa using hne, hlt, hs.symm, by rw [← digitsValue_map h hlt, hs, hvalue]⟩
  · rintro ⟨ds, hne, hlt, rfl, hvalue⟩
    refine ⟨⟨by simpa using hne, List.all_eq_true.mpr ?_⟩, by rw [digitsValue_map h hlt, hvalue]⟩
    exact List.forall_mem_map.mpr fun d hd => h.isCode_code d (hlt d hd)

theorem natLit_eq_some (s : Text) (m : Nat) :
    natLit s = some m ↔ (s ≠ [] ∧ s.all isDigit = true) ∧ digitsValue 10 s = m := by
  simp [natLit]

theorem hexLit_eq_some (s : Text) (m : Nat) :
    hexLit s = some m ↔ (s ≠ [] ∧ s.all isHexDigit = true) ∧ digitsValue 16 s = m := by
  simp [hexLit]

theorem natLit_eq_some_iff (s : Text) (m : Nat) : natLit s = some m ↔
    ∃ ds : List Nat, ds ≠ [] ∧ (∀ d ∈ ds, d < 10) ∧ s = ds.map digitCode ∧
      m = ds.foldl (fun acc d => acc * 10 + d) 0 :=
  (natLit_eq_some s m).trans (numeral_iff decimal_digitCodes)

theorem hexLit_eq_some_iff (s : Text) (m : Nat) : hexLit s = some m ↔
    ∃ ds : List Nat, ds ≠ [] ∧ (∀ d ∈ ds, d < 16) ∧ s = ds.map hexCode ∧
      m = ds.foldl (fun acc d => acc * 16 + d) 0 :=
  (hexLit_eq_some s m).trans (numeral_iff hexadecimal_digitCodes)

theorem decLit_minus (r : Text) : decLit (0x2D#8 :: r) = (natLit r).map fun m : Nat => -(m : Int) := by
  cases h : natLit r <;> simp [decLit, h]

theorem decLit_of_ne_minus {x : Byte} (hx : x ≠ 0x2D#8) (r : Text) :
    decLit (x :: r) = (natLit (x :: r)).map fun m : Nat => (m : Int) := by
  cases h : natLit (x :: r) <;> simp [decLit, hx, h]

/-- A minus sign is no digit, so the sign and the digits tell themselves apart (R241). -/
theorem decLit_eq_some_iff (s : Text) (a : Int) : decLit s = some a ↔
    (∃ m : Nat, natLit s = some m ∧ a = m) ∨ ∃ r m, s = 0x2D#8 :: r ∧ natLit r = some m ∧ a = -(m : Int) := by
  cases s with
  | nil => simp [decLit, natLit]
  | cons x r =>
    by_cases hx : x = 0x2D#8
    · subst hx
      have hnat : natLit (0x2D#8 :: r) = none := rfl
      simp [decLit_minus, hnat, eq_comm (b := a)]
    · simp [decLit_of_ne_minus hx, hx, eq_comm (b := a)]

theorem regTok_eq_ok_iff (t : Text) (k : Reg) :
    regTok t = .ok k ↔ ∃ r, t = 0x52#8 :: r ∧ natLit r = some k.toNat := by
  cases t with
  | nil => simp [regTok]
  | cons x r =>
    by_cases hx : x = 0x52#8
    · cases hr : natLit r with
      | none => simp [regTok, hx, hr]
      | some m =>
        have hk : k.toNat < 8 := k.isLt
        by_cases hm : m ≤ 7
        · have hmod : m % 8 = m := Nat.mod_eq_of_lt (Nat.lt_succ_of_le hm)
          simp [regTok, hx, hr, Config.regMax, hm, ← BitVec.toNat_inj, hmod]
        · have hne : m ≠ k.toNat := by omega
          simp [regTok, hx, hr, Config.regMax, hm, hne]
    · simp [regTok, hx]

/-- Each of `regTok`'s failing branches names the same failure. -/
theorem regTok_eq_error {f : EncFailure} (h : regTok t = .error f) : f = .invalidRegister := by
  unfold regTok at h
  repeat' split at h
  all_goals cases h
  all_goals rfl

/-- Settles O34: what follows the R is a numeral, whose value the index has room for. -/
theorem registerTokenGrammar : Obligations.RegisterTokenGrammar := by
  refine ⟨fun t k => ?_, fun t f => regTok_eq_error⟩
  rw [regTok_eq_ok_iff]
  constructor
  · rintro ⟨r, rfl, hr⟩
    obtain ⟨ds, hne, hlt, rfl, hvalue⟩ := (natLit_eq_some_iff _ _).mp hr
    exact ⟨ds, hne, hlt, rfl, hvalue.symm⟩
  · rintro ⟨ds, hne, hlt, rfl, hvalue⟩
    exact ⟨_, rfl, (natLit_eq_some_iff _ _).mpr ⟨ds, hne, hlt, rfl, hvalue.symm⟩⟩

/-- Settles O35: the first code selects the number that is read and cut to the field; either sign stands before a
numeral, which is the codes of its digits. -/
theorem immediateTokenGrammar : Obligations.ImmediateTokenGrammar := by
  refine ⟨fun n s => ?_, fun n s => ?_, fun n x s hhash hx => ?_, fun s a => ?_, hexLit_eq_some_iff⟩
  · cases h : decLit s <;> simp [immTok, immValue, h, trunc]
  · cases h : hexLit s <;> simp [immTok, immValue, h, trunc]
  · cases h : decLit (x :: s) <;> simp [immTok, immValue, hhash, hx, h, trunc]
  · rw [decLit_eq_some_iff]
    constructor
    · rintro (⟨m, hm, rfl⟩ | ⟨r, m, rfl, hm, rfl⟩)
      · obtain ⟨ds, hne, hlt, rfl, rfl⟩ := (natLit_eq_some_iff _ _).mp hm
        exact ⟨ds, hne, hlt, .inl ⟨rfl, rfl⟩⟩
      · obtain ⟨ds, hne, hlt, rfl, rfl⟩ := (natLit_eq_some_iff _ _).mp hm
        exact ⟨ds, hne, hlt, .inr ⟨rfl, rfl⟩⟩
    · rintro ⟨ds, hne, hlt, ⟨rfl, rfl⟩ | ⟨rfl, rfl⟩⟩
      · exact .inl ⟨_, (natLit_eq_some_iff _ _).mpr ⟨ds, hne, hlt, rfl, rfl⟩, rfl⟩
      · exact .inr ⟨_, _, rfl, (natLit_eq_some_iff _ _).mpr ⟨ds, hne, hlt, rfl, rfl⟩, rfl⟩

end Sys2Proof.Machine
end

section
/-! PROOF. Binary text is read back as the word it was written from (45_text_encode.md R245; 20_memory.md R41). -/

namespace Sys2Proof.Machine

variable {w : Word} {x : Byte}

@[simp] theorem length_bin16 (w : Word) : (bin16 w).length = 16 := by
  simp [bin16]

/-- Character `k` is written by bit `15 - k` (R245). -/
theorem getElem?_bin16 (w : Word) {k : Nat} (hk : k < 16) :
    (bin16 w)[k]? = some (if w.getLsbD (15 - k) then 0x31#8 else 0x30#8) := by
  simp [bin16, hk]

theorem eq_zero_or_one_of_mem_bin16 (h : x ∈ bin16 w) : x = 0x30#8 ∨ x = 0x31#8 := by
  obtain ⟨k, -, rfl⟩ := List.mem_map.mp h
  split
  · exact .inr rfl
  · exact .inl rfl

/-- There is nothing to strip: neither `b` nor a whitespace code is a binary digit. -/
theorem normalise_bin16 (w : Word) : normalise (bin16 w) = bin16 w := by
  have hprefix : ∀ rest, bin16 w ≠ chars ['0', 'b'] ++ rest := by
    intro rest h
    have hb : 0x62#8 ∈ bin16 w := h ▸ by simp [chars]
    simpa using eq_zero_or_one_of_mem_bin16 hb
  rw [normalise, stripPrefix_eq_self hprefix, List.filter_eq_self]
  intro x hx
  obtain rfl | rfl := eq_zero_or_one_of_mem_bin16 hx <;> rfl

theorem readWord_bin16 (w : Word) : readWord (bin16 w) = .ok w := by
  have hbits : ∀ k < 16, (w.getLsbD (15 - k) = true ↔ (bin16 w)[k]? = some 0x31#8) := by
    intro k hk
    rw [getElem?_bin16 w hk]
    cases w.getLsbD (15 - k) <;> simp
  have hread := readWord_of_digits (raw := bin16 w)
  rw [normalise_bin16] at hread
  rw [hread (length_bin16 w) fun x => eq_zero_or_one_of_mem_bin16, ofNat_binValue_eq (length_bin16 w) hbits]

/-- A legal word's sixteen characters decode to its canonical text. -/
theorem codecDecodeText_bin16 (hlegal : opcodeOf w ≠ 0b1101#4) :
    codecDecodeText (bin16 w) = .ok (render (decodeWord w)) := by
  rw [codecDecodeText_of_ok (readWord_bin16 w), if_neg hlegal]

/-- No line encodes to the reserved opcode (R68). -/
theorem opcodeOf_ne_reserved_of_codecEncodeText {line : Text} (h : codecEncodeText line = .ok w) :
    opcodeOf w ≠ 0b1101#4 := by
  obtain ⟨i, -, hencode⟩ := encode_of_codecEncodeText h
  exact opcodeOf_ne_reserved_of_encode hencode

/-- Settles O38: the decoder reads the characters back bit by bit, and no line encodes to the reserved opcode. -/
theorem bin16IsReadBack : Obligations.Bin16IsReadBack := by
  refine ⟨fun w => ⟨length_bin16 w, fun k hk => getElem?_bin16 w hk⟩, readWord_bin16, fun line w h => ?_⟩
  exact ⟨_, codecDecodeText_bin16 (opcodeOf_ne_reserved_of_codecEncodeText h)⟩

end Sys2Proof.Machine
end

section
/-! PROOF. What ENCODE_TEXT answers a line: the three failures of its first tokens, and what is left to its operands
(45_text_encode.md R234 to R238; 60_exceptions.md R275). -/

namespace Sys2Proof.Machine

/-! The first token (R235 to R237). -/

theorem familyOf_of_mem_firstTokens : ∀ p ∈ firstTokens, (familyOf p.1).map Family.minTokens = some p.2 := by
  decide

theorem exists_mem_of_find?_eq_some {α : Type} {rows : List (Text × α)} {key : Text} {a : α}
    (h : (rows.find? fun p => p.1 == key).map Prod.snd = some a) : (key, a) ∈ rows := by
  obtain ⟨p, hfind, rfl⟩ := Option.map_eq_some_iff.mp h
  obtain rfl : p.1 = key := eq_of_beq (List.find?_some (p := fun p : Text × α => p.1 == key) hfind)
  exact List.mem_of_find?_eq_some hfind

theorem mem_brSuffixes_of_brSuffixBits {suffix : Text} {nzp : BitVec 3} (h : brSuffixBits suffix = some nzp) :
    (suffix, nzp) ∈ brSuffixes :=
  exists_mem_of_find?_eq_some h

theorem mem_firstTokens_of_familyOf {mnemonic : Text} {f : Family} (h : familyOf mnemonic = some f) :
    (mnemonic, f.minTokens) ∈ firstTokens := by
  unfold familyOf at h
  split at h
  next hbr =>
    obtain ⟨nzp, hsuffix, rfl⟩ := Option.map_eq_some_iff.mp h
    have hall : ∀ p ∈ brSuffixes, (chars ['B', 'R'] ++ p.1, 2) ∈ firstTokens := by decide
    rw [← List.take_append_drop 2 mnemonic, hbr]
    exact hall _ (mem_brSuffixes_of_brSuffixBits hsuffix)
  next =>
    have hall : ∀ p ∈ exactFamilies, (p.1, p.2.minTokens) ∈ firstTokens := by decide
    exact hall _ (exists_mem_of_find?_eq_some h)

/-- The accepted first tokens, with their counts, are those that name a family, with the family's count. -/
theorem mem_firstTokens_iff (mnemonic : Text) (n : Nat) :
    (mnemonic, n) ∈ firstTokens ↔ ∃ f, familyOf mnemonic = some f ∧ f.minTokens = n := by
  constructor
  · intro h
    exact Option.map_eq_some_iff.mp (familyOf_of_mem_firstTokens _ h)
  · rintro ⟨f, hf, rfl⟩
    exact mem_firstTokens_of_familyOf hf

/-! The operands: what a reading of them can answer. -/

/-- `x` answers with an operand failure, or with a value that has `P`. -/
def OperandOutcome {α : Type} (P : α → Prop) : Except EncFailure α → Prop
  | .ok a => P a
  | .error f => f = .invalidRegister ∨ f = .invalidImmediate

theorem OperandOutcome.bind {α β : Type} {P : α → Prop} {Q : β → Prop} {x : Except EncFailure α}
    {g : α → Except EncFailure β} (hx : OperandOutcome P x) (hg : ∀ a, P a → OperandOutcome Q (g a)) :
    OperandOutcome Q (x >>= g) := by
  cases x with
  | ok a => exact hg a hx
  | error f => exact hx

theorem OperandOutcome.ne_earlier_failure {α : Type} {P : α → Prop} {x : Except EncFailure α}
    (hx : OperandOutcome P x) :
    x ≠ .error .emptyInput ∧ x ≠ .error .unknownMnemonic ∧ x ≠ .error .missingOperand := by
  refine ⟨?_, ?_, ?_⟩ <;>
  · rintro rfl
    exact hx.elim nofun nofun

theorem operandOutcome_regTok (t : Text) : OperandOutcome (fun _ => True) (regTok t) := by
  cases h : regTok t with
  | ok k => trivial
  | error f => exact .inl (regTok_eq_error h)

theorem operandOutcome_immTok (n : Nat) (t : Text) : OperandOutcome (fun _ => True) (immTok n t) := by
  unfold immTok
  split
  · exact .inr rfl
  · trivial

/-- A signed immediate is the signed reading of its field. -/
theorem operandOutcome_signedTok (n : Nat) (t : Text) :
    OperandOutcome (fun a => ∃ v : BitVec n, a = sext v) (signedTok n t) := by
  have hbind : signedTok n t = immTok n t >>= fun v => .ok (sext v) := by
    rw [signedTok]
    cases immTok n t <;> rfl
  rw [hbind]
  exact (operandOutcome_immTok n t).bind fun v _ => ⟨v, rfl⟩

/-- What a line can write: an instruction with every operand in range that is no BR of n, z, p = 000; or JMP R7, which
is RET in another spelling (R101, R153, R236). -/
inductive Written : Instr → Prop where
  | wellFormed {i : Instr} (hwf : i.wellFormed = true) (hbr : ∀ off9, i ≠ .brNone off9) : Written i
  | jmpSeven : Written (.jmp 7#3)

variable {tok : List Text} {f : Family} {i : Instr}

theorem operandOutcome_parseOperate {regForm : Reg → Reg → Reg → Instr} {immForm : Reg → Reg → Int → Instr}
    (hreg : ∀ dr sr1 sr2, Written (regForm dr sr1 sr2))
    (himm : ∀ dr sr1 (imm5 : BitVec 5), Written (immForm dr sr1 (sext imm5))) :
    OperandOutcome Written (parseOperate regForm immForm tok) := by
  refine (operandOutcome_regTok _).bind fun dr _ => (operandOutcome_regTok _).bind fun sr1 _ => ?_
  split
  · exact (operandOutcome_regTok _).bind fun sr2 _ => hreg dr sr1 sr2
  · refine (operandOutcome_signedTok 5 _).bind ?_
    rintro _ ⟨imm5, rfl⟩
    exact himm dr sr1 imm5

theorem operandOutcome_parseBase {form : Reg → Instr} (h : ∀ base, Written (form base)) :
    OperandOutcome Written (parseBase form tok) :=
  (operandOutcome_regTok _).bind fun base _ => h base

theorem operandOutcome_parseOffset {n : Nat} {form : Int → Instr} (h : ∀ off : BitVec n, Written (form (sext off))) :
    OperandOutcome Written (parseOffset n form tok) := by
  refine (operandOutcome_signedTok n _).bind ?_
  rintro _ ⟨off, rfl⟩
  exact h off

theorem operandOutcome_parseRegOffset {form : Reg → Int → Instr}
    (h : ∀ r (off9 : BitVec 9), Written (form r (sext off9))) : OperandOutcome Written (parseRegOffset form tok) := by
  refine (operandOutcome_regTok _).bind fun r _ => (operandOutcome_signedTok 9 _).bind ?_
  rintro _ ⟨off9, rfl⟩
  exact h r off9

theorem operandOutcome_parseRegBaseOffset {form : Reg → Reg → Int → Instr}
    (h : ∀ r base (off6 : BitVec 6), Written (form r base (sext off6))) :
    OperandOutcome Written (parseRegBaseOffset form tok) := by
  refine (operandOutcome_regTok _).bind fun r _ => (operandOutcome_regTok _).bind fun base _ =>
    (operandOutcome_signedTok 6 _).bind ?_
  rintro _ ⟨off6, rfl⟩
  exact h r base off6

theorem nzp_eq_zero_of_brOf_eq_brNone {nzp : BitVec 3} {off9 off9' : Int} (h : brOf nzp off9 = .brNone off9') :
    nzp = 0#3 := by
  have htranslation := (translation_brOf nzp off9).symm.trans (congrArg translation h)
  exact congrArg (fun t => t.record.nzp) (Option.some.inj htranslation)

theorem written_brOf {nzp : BitVec 3} (hnzp : nzp ≠ 0#3) (off9 : BitVec 9) : Written (brOf nzp (sext off9)) :=
  .wellFormed ((wellFormed_brOf _ _).trans (inRange_sext off9))
    fun _ h => hnzp (nzp_eq_zero_of_brOf_eq_brNone h)

theorem written_jmp (base : Reg) : Written (.jmp base) := by
  by_cases hbase : base = 7#3
  · rw [hbase]
    exact .jmpSeven
  · exact .wellFormed (decide_eq_true hbase) nofun

/-- Every family's operand rule fails with an operand's failure, or answers an instruction that a line can write. -/
theorem operandOutcome_parse (hf : f ≠ .br 0#3) (tok : List Text) : OperandOutcome Written (f.parse tok) := by
  cases f with
  | add | and =>
    exact operandOutcome_parseOperate (fun _ _ _ => .wellFormed rfl nofun)
      fun _ _ _ => .wellFormed (inRange_sext _) nofun
  | br nzp => exact operandOutcome_parseOffset (written_brOf fun h => hf (congrArg Family.br h))
  | jmp => exact operandOutcome_parseBase written_jmp
  | jsrr => exact operandOutcome_parseBase fun _ => .wellFormed rfl nofun
  | jsr => exact operandOutcome_parseOffset fun _ => .wellFormed (inRange_sext _) nofun
  | ld | ldi | lea | st | sti => exact operandOutcome_parseRegOffset fun _ _ => .wellFormed (inRange_sext _) nofun
  | ldr | str => exact operandOutcome_parseRegBaseOffset fun _ _ _ => .wellFormed (inRange_sext _) nofun
  | not =>
    exact (operandOutcome_regTok _).bind fun _ _ => (operandOutcome_regTok _).bind fun _ _ => .wellFormed rfl nofun
  | trap => exact (operandOutcome_immTok 8 _).bind fun _ _ => .wellFormed rfl nofun
  | ret | rti => exact .wellFormed rfl nofun

theorem ne_br_zero_of_familyOf {mnemonic : Text} (h : familyOf mnemonic = some f) : f ≠ .br 0#3 := by
  rintro rfl
  unfold familyOf at h
  split at h
  next =>
    obtain ⟨nzp, hsuffix, hnzp⟩ := Option.map_eq_some_iff.mp h
    have hall : ∀ p ∈ brSuffixes, Family.br p.2 ≠ .br 0#3 := by decide
    exact hall _ (mem_brSuffixes_of_brSuffixBits hsuffix) hnzp
  next =>
    have hall : ∀ p ∈ exactFamilies, p.2 ≠ .br 0#3 := by decide
    exact hall _ (exists_mem_of_find?_eq_some h) rfl

/-! The line (R234 to R238, R275). -/

variable {line : Text}

theorem exists_encode_of_written (h : Written i) : ∃ w, encode i = some w := by
  cases h with
  | wellFormed hwf => exact exists_encodeWith Config.notFill hwf
  | jmpSeven => exact ⟨_, rfl⟩

theorem codecEncodeText_of_tokens_nil (htok : tokens line = []) : codecEncodeText line = .error .emptyInput := by
  simp only [codecEncodeText_eq_bind, parseLine, htok, parseTokens]
  rfl

theorem written_of_parseLine (h : parseLine line = .ok i) : Written i := by
  unfold parseLine parseTokens at h
  split at h
  next => cases h
  next mnemonic ops _ =>
    split at h
    next => cases h
    next f hfamily =>
      have houtcome := operandOutcome_parse (ne_br_zero_of_familyOf hfamily) (mnemonic :: ops)
      split at h
      · cases h
      · rwa [h] at houtcome

/-- Past the three tests, only an operand can fail. -/
theorem operandOutcome_codecEncodeText {mnemonic : Text} {ops : List Text} (htok : tokens line = mnemonic :: ops)
    (hfamily : familyOf mnemonic = some f) (hcount : f.minTokens ≤ ops.length + 1) :
    OperandOutcome (fun _ => True) (codecEncodeText line) := by
  rw [codecEncodeText_of_family htok hfamily hcount]
  refine (operandOutcome_parse (ne_br_zero_of_familyOf hfamily) _).bind fun i hi => ?_
  obtain ⟨w, hencode⟩ := exists_encode_of_written hi
  rw [assemble_of_encode hencode]
  trivial

/-- Settles O36: a line fails one of the three tests with its failure, or passes all of them and then answers with none
of the three. -/
theorem encoderFailurePriority : Obligations.EncoderFailurePriority := by
  intro line
  simp only [mem_firstTokens_iff]
  cases htok : tokens line with
  | nil => simp [codecEncodeText_of_tokens_nil htok]
  | cons mnemonic ops =>
    cases hfamily : familyOf mnemonic with
    | none => simp [codecEncodeText_of_familyOf_none htok hfamily, hfamily]
    | some f =>
      obtain hcount | hcount := lt_or_ge (ops.length + 1) f.minTokens
      · simp [codecEncodeText_of_count_lt htok hfamily hcount, hfamily, hcount]
      · have hne := (operandOutcome_codecEncodeText htok hfamily hcount).ne_earlier_failure
        simp [hne, hfamily, hcount]

theorem token_take {n k : Nat} (hk : k < n) (tok : List Text) : token (tok.take n) k = token tok k := by
  simp [token, List.getD_eq_getElem?_getD, hk]

/-- Every family reads its operands among its first `minTokens` tokens. -/
theorem parse_take_minTokens (f : Family) (tok : List Text) : f.parse (tok.take f.minTokens) = f.parse tok := by
  cases f with
  | ret | rti => rfl
  | add | and => simp [Family.parse, Family.minTokens, parseOperate, token_take]
  | br | jsr => simp [Family.parse, Family.minTokens, parseOffset, token_take]
  | jmp | jsrr => simp [Family.parse, Family.minTokens, parseBase, token_take]
  | ld | ldi | lea | st | sti => simp [Family.parse, Family.minTokens, parseRegOffset, token_take]
  | ldr | str => simp [Family.parse, Family.minTokens, parseRegBaseOffset, token_take]
  | not => simp [Family.parse, Family.minTokens, parseNot, token_take]
  | trap => simp [Family.parse, Family.minTokens, parseTrap, token_take]

theorem Family.minTokens_pos (f : Family) : 0 < f.minTokens := by
  cases f <;> exact Nat.succ_pos _

/-- Settles O37: the family and the tokens that it reads are the same on both lines. -/
theorem extraTokensAreNotRead : Obligations.ExtraTokensAreNotRead := by
  intro line line' mnemonic ops ops' n hmem htok htok' hcount hcount' hops
  obtain ⟨f, hfamily, rfl⟩ := (mem_firstTokens_iff _ _).mp hmem
  have htake : (mnemonic :: ops).take f.minTokens = (mnemonic :: ops').take f.minTokens := by
    rw [List.take_cons f.minTokens_pos, List.take_cons f.minTokens_pos, hops]
  rw [codecEncodeText_of_family htok hfamily hcount, codecEncodeText_of_family htok' hfamily hcount',
    ← parse_take_minTokens, htake, parse_take_minTokens]

end Sys2Proof.Machine
end

section
/-! PROOF. Printed operands are read back (44_text_decode.md R216 to R218; 45_text_encode.md R239 to R243). -/

namespace Sys2Proof.Machine

variable {x : Byte} {s : Text}

/-- The codes of a printed number: digits of either base, and the minus sign. -/
def isNumberCode (x : Byte) : Bool := decide (x = 0x2D#8) || isHexDigit x

theorem not_mem_separators_of_isNumberCode : ∀ x : Byte, isNumberCode x = true → x ∉ separators := by
  decide

theorem upperCode_of_isNumberCode : ∀ x : Byte, isNumberCode x = true → upperCode x = x := by
  decide

theorem isNumberCode_of_isDigit : ∀ x : Byte, isDigit x = true → isNumberCode x = true := by
  decide

/-- A printed operand: a mark and a number. -/
theorem isRun_cons (hx : x ∉ separators) (hs : ∀ y ∈ s, isNumberCode y = true) : IsRun (x :: s) :=
  ⟨List.cons_ne_nil x s,
    List.forall_mem_cons.mpr ⟨hx, fun y hy => not_mem_separators_of_isNumberCode y (hs y hy)⟩⟩

theorem map_upperCode_cons (hs : ∀ y ∈ s, isNumberCode y = true) : (x :: s).map upperCode = upperCode x :: s := by
  rw [List.map_cons, List.map_congr_left fun y hy => upperCode_of_isNumberCode y (hs y hy), List.map_id']

/-! Registers. -/

@[simp] theorem regTok_regText (k : Reg) : regTok (regText k) = .ok k := by
  rw [regTok_eq_ok_iff]
  have hk : k.toNat < 10 := k.isLt.trans (by decide)
  exact ⟨[digitCode k.toNat], rfl,
    (natLit_eq_some_iff _ _).mpr ⟨[k.toNat], by simp, by simpa using hk, rfl, by simp⟩⟩

theorem isNumberCode_regText (k : Reg) : ∀ y ∈ [digitCode k.toNat], isNumberCode y = true := by
  have hall : ∀ k : Reg, isNumberCode (digitCode k.toNat) = true := by decide
  simpa using hall k

theorem isRun_regText (k : Reg) : IsRun (regText k) :=
  isRun_cons (by decide) (isNumberCode_regText k)

@[simp] theorem map_upperCode_regText (k : Reg) : (regText k).map upperCode = regText k :=
  map_upperCode_cons (isNumberCode_regText k)

/-! Signed immediates. -/

theorem natLit_natText (n : Nat) : natLit (natText n) = some n := by
  obtain rfl | hn := n.eq_zero_or_pos
  · rfl
  · rw [natLit_eq_some_iff]
    exact ⟨(Nat.digits 10 n).reverse, List.reverse_ne_nil_iff.mpr (Nat.digits_ne_nil_iff_ne_zero.mpr hn.ne'),
      fun d hd => Nat.digits_lt_base (by decide) (List.mem_reverse.mp hd), natText_eq_map_digits hn,
      (foldl_reverse_digits n).symm⟩

theorem isNumberCode_natText (n : Nat) : ∀ y ∈ natText n, isNumberCode y = true := by
  obtain ⟨⟨-, hall⟩, -⟩ := (natLit_eq_some _ _).mp (natLit_natText n)
  exact fun y hy => isNumberCode_of_isDigit y (List.all_eq_true.mp hall y hy)

/-- An immediate is printed as `#` and the decimal number that it writes. -/
theorem exists_immText_eq (v : Int) : ∃ s, immText v = 0x23#8 :: s ∧ (∀ y ∈ s, isNumberCode y = true) ∧
    decLit s = some v := by
  rw [immText]
  split
  next hneg =>
    refine ⟨0x2D#8 :: natText v.natAbs, rfl, List.forall_mem_cons.mpr ⟨by decide, isNumberCode_natText _⟩, ?_⟩
    rw [decLit_eq_some_iff]
    exact .inr ⟨_, _, rfl, natLit_natText _, by omega⟩
  next hnonneg =>
    refine ⟨natText v.natAbs, rfl, isNumberCode_natText _, ?_⟩
    rw [decLit_eq_some_iff]
    exact .inl ⟨_, natLit_natText _, by omega⟩

theorem isRun_immText (v : Int) : IsRun (immText v) := by
  obtain ⟨s, hv, hs, -⟩ := exists_immText_eq v
  exact hv ▸ isRun_cons (by decide) hs

@[simp] theorem map_upperCode_immText (v : Int) : (immText v).map upperCode = immText v := by
  obtain ⟨s, hv, hs, -⟩ := exists_immText_eq v
  exact hv ▸ map_upperCode_cons hs

theorem immTok_immText (n : Nat) (v : Int) : immTok n (immText v) = .ok (trunc n v) := by
  obtain ⟨s, hv, -, hlit⟩ := exists_immText_eq v
  rw [hv, immTok, immValue, if_pos rfl, hlit]

/-- An immediate in its field's range is read back. -/
theorem signedTok_immText {n : Nat} {v : Int} (h : sext (trunc n v) = v) : signedTok n (immText v) = .ok v := by
  rw [signedTok, immTok_immText, Except.map, h]

/-! The TRAP vector. -/

theorem hexLit_hex2 (v : BitVec 8) : hexLit (hex2 v) = some v.toNat := by
  have hv : v.toNat < 256 := v.isLt
  rw [hexLit_eq_some_iff]
  refine ⟨[v.toNat / 16, v.toNat % 16], by simp, ?_, rfl, ?_⟩
  · simp
    omega
  · simp
    omega

theorem isNumberCode_hex2 (v : BitVec 8) : ∀ y ∈ hex2 v, isNumberCode y = true := by
  obtain ⟨⟨-, hall⟩, -⟩ := (hexLit_eq_some _ _).mp (hexLit_hex2 v)
  intro y hy
  rw [isNumberCode, List.all_eq_true.mp hall y hy, Bool.or_true]

theorem isRun_vecText (v : BitVec 8) : IsRun (vecText v) :=
  isRun_cons (by decide) (isNumberCode_hex2 v)

theorem map_upperCode_vecText (v : BitVec 8) : (vecText v).map upperCode = 0x58#8 :: hex2 v :=
  map_upperCode_cons (isNumberCode_hex2 v)

theorem immTok_vecText (v : BitVec 8) : immTok 8 ((vecText v).map upperCode) = .ok v := by
  rw [map_upperCode_vecText, immTok, immValue, if_neg (by decide), if_pos rfl, hexLit_hex2]
  exact congrArg Except.ok (trunc_natCast_toNat v)

end Sys2Proof.Machine
end

section
/-! PROOF. Canonical text is a line of its instruction (44_text_decode.md R215, R222; 47_properties.md R322). -/

namespace Sys2Proof.Machine

variable {w : Word} {i : Instr} {mnemonic : Text} {operands : List Text} {f : Family}

/-! The tokens of canonical text. -/

theorem tokens_joinOperands (h : ∀ t ∈ operands, IsRun t) :
    tokens (joinOperands operands) = operands.map (List.map upperCode) := by
  induction operands with
  | nil => rfl
  | cons t ts ih =>
    obtain ⟨ht, hts⟩ := List.forall_mem_cons.mp h
    cases ts with
    | nil => exact tokens_of_isRun ht
    | cons u us =>
      have hsplit : joinOperands (t :: u :: us) = t ++ 0x2C#8 :: ([] ++ 0x20#8 :: joinOperands (u :: us)) := by
        simp [joinOperands, chars]
      rw [hsplit, tokens_append_cons _ _ (by decide), tokens_append_cons _ _ (by decide), tokens_of_isRun ht, ih hts]
      rfl

theorem tokens_asmText (hmnemonic : IsRun mnemonic) (h : ∀ t ∈ operands, IsRun t) :
    tokens (asmText mnemonic operands) = mnemonic.map upperCode :: operands.map (List.map upperCode) := by
  cases operands with
  | nil => exact tokens_of_isRun hmnemonic
  | cons t ts =>
    have hsplit : asmText mnemonic (t :: ts) = mnemonic ++ 0x20#8 :: joinOperands (t :: ts) := by
      simp [asmText, chars]
    rw [hsplit, tokens_append_cons _ _ (by decide), tokens_of_isRun hmnemonic, tokens_joinOperands h]
    rfl

/-- Canonical text goes to its mnemonic's family, which reads the printed operands. -/
theorem parseLine_asmText (hmnemonic : IsRun mnemonic) (h : ∀ t ∈ operands, IsRun t)
    (hfamily : familyOf (mnemonic.map upperCode) = some f) (hcount : f.minTokens ≤ operands.length + 1)
    (hparse : f.parse (mnemonic.map upperCode :: operands.map (List.map upperCode)) = .ok i) :
    parseLine (asmText mnemonic operands) = .ok i := by
  rw [parseLine, tokens_asmText hmnemonic h, parseTokens, hfamily]
  refine (if_neg ?_).trans hparse
  rw [List.length_map]
  exact Nat.not_lt.mpr hcount

/-- An operand read without failure goes on to the next. -/
@[simp] theorem ok_bind {α β : Type} (a : α) (g : α → Except EncFailure β) :
    (.ok a : Except EncFailure α) >>= g = g a := rfl

/-! The formats: the operands are printed in the order in which they are read, each in its own spelling. -/

@[simp] theorem signedTok_immText_sext {n : Nat} (v : BitVec n) : signedTok n (immText (sext v)) = .ok (sext v) :=
  signedTok_immText (by rw [trunc_sext])

theorem take_one_regText (k : Reg) : (regText k).take 1 = chars ['R'] := rfl

theorem take_one_immText_ne (v : Int) : (immText v).take 1 ≠ chars ['R'] := by
  obtain ⟨s, hv, -, -⟩ := exists_immText_eq v
  rw [hv]
  simp [chars]

section Formats

variable (hmnemonic : IsRun mnemonic) (hfamily : familyOf (mnemonic.map upperCode) = some f)

include hmnemonic hfamily

theorem parseLine_noOperand (hparse : ∀ tok, f.parse tok = .ok i) (hcount : f.minTokens ≤ 1) :
    parseLine (asmText mnemonic []) = .ok i :=
  parseLine_asmText hmnemonic (by simp) hfamily hcount (hparse _)

theorem parseLine_base {form : Reg → Instr} (hparse : ∀ tok, f.parse tok = parseBase form tok)
    (hcount : f.minTokens ≤ 2) (base : Reg) : parseLine (asmText mnemonic [regText base]) = .ok (form base) := by
  refine parseLine_asmText hmnemonic (by simp [isRun_regText]) hfamily hcount ?_
  rw [hparse]
  simp [parseBase, token]

theorem parseLine_offset {n : Nat} {form : Int → Instr} (hparse : ∀ tok, f.parse tok = parseOffset n form tok)
    (hcount : f.minTokens ≤ 2) (off : BitVec n) :
    parseLine (asmText mnemonic [immText (sext off)]) = .ok (form (sext off)) := by
  refine parseLine_asmText hmnemonic (by simp [isRun_immText]) hfamily hcount ?_
  rw [hparse]
  simp [parseOffset, token]

theorem parseLine_regOffset {form : Reg → Int → Instr} (hparse : ∀ tok, f.parse tok = parseRegOffset form tok)
    (hcount : f.minTokens ≤ 3) (r : Reg) (off9 : BitVec 9) :
    parseLine (asmText mnemonic [regText r, immText (sext off9)]) = .ok (form r (sext off9)) := by
  refine parseLine_asmText hmnemonic (by simp [isRun_regText, isRun_immText]) hfamily hcount ?_
  rw [hparse]
  simp [parseRegOffset, token]

theorem parseLine_regBaseOffset {form : Reg → Reg → Int → Instr}
    (hparse : ∀ tok, f.parse tok = parseRegBaseOffset form tok) (hcount : f.minTokens ≤ 4) (r base : Reg)
    (off6 : BitVec 6) :
    parseLine (asmText mnemonic [regText r, regText base, immText (sext off6)]) = .ok (form r base (sext off6)) := by
  refine parseLine_asmText hmnemonic (by simp [isRun_regText, isRun_immText]) hfamily hcount ?_
  rw [hparse]
  simp [parseRegBaseOffset, token]

section Operate

variable {regForm : Reg → Reg → Reg → Instr} {immForm : Reg → Reg → Int → Instr}
variable (hparse : ∀ tok, f.parse tok = parseOperate regForm immForm tok) (hcount : f.minTokens ≤ 4)

include hparse hcount

theorem parseLine_operate_reg (dr sr1 sr2 : Reg) :
    parseLine (asmText mnemonic [regText dr, regText sr1, regText sr2]) = .ok (regForm dr sr1 sr2) := by
  refine parseLine_asmText hmnemonic (by simp [isRun_regText]) hfamily hcount ?_
  rw [hparse]
  simp [parseOperate, token, take_one_regText]

theorem parseLine_operate_imm (dr sr1 : Reg) (imm5 : BitVec 5) :
    parseLine (asmText mnemonic [regText dr, regText sr1, immText (sext imm5)]) = .ok (immForm dr sr1 (sext imm5)) := by
  refine parseLine_asmText hmnemonic (by simp [isRun_regText, isRun_immText]) hfamily hcount ?_
  rw [hparse]
  simp [parseOperate, token, take_one_immText_ne]

end Operate

end Formats

theorem parseLine_notR (dr sr : Reg) : parseLine (render (.notR dr sr)) = .ok (.notR dr sr) := by
  have hmnemonic : IsRun (chars ['N', 'O', 'T']) := ⟨by decide, by decide⟩
  refine parseLine_asmText (f := .not) (operands := [regText dr, regText sr]) hmnemonic
    (by simp [isRun_regText]) rfl le_rfl ?_
  simp [Family.parse, parseNot, token]

theorem parseLine_trap (vec8 : BitVec 8) : parseLine (render (.trap vec8)) = .ok (.trap vec8) := by
  have hmnemonic : IsRun (chars ['T', 'R', 'A', 'P']) := ⟨by decide, by decide⟩
  refine parseLine_asmText (f := .trap) (operands := [vecText vec8]) hmnemonic
    (by simp [isRun_vecText]) rfl le_rfl ?_
  simp [Family.parse, parseTrap, token, immTok_vecText]

/-! The instruction that canonical text is read back as. -/

/-- BR of n, z, p = 000 is printed `BRnzp`, and so read back as BR of 111; every other instruction is read back as it is
(R219, R322). -/
def readBack : Instr → Instr
  | .brNone off9 => .brNZP off9
  | i => i

theorem readBack_of_ne_brNone (h : ∀ off9, i ≠ .brNone off9) : readBack i = i := by
  unfold readBack
  split
  · exact absurd rfl (h _)
  · rfl

theorem readBack_brOf (nzp : BitVec 3) (off9 : Int) :
    readBack (brOf nzp off9) = brOf (if nzp = 0#3 then 0b111#3 else nzp) off9 := by
  have hall : ∀ k : Fin 8, readBack (brOf (BitVec.ofFin k) off9) =
      brOf (if BitVec.ofFin k = 0#3 then 0b111#3 else BitVec.ofFin k) off9 := by
    intro k
    fin_cases k <;> rfl
  exact hall nzp.toFin

theorem isRun_brMnemonic (nzp : BitVec 3) : IsRun (brMnemonic nzp) := by
  have hall : ∀ nzp : BitVec 3, brMnemonic nzp ≠ [] ∧ ∀ x ∈ brMnemonic nzp, x ∉ separators := by decide
  obtain ⟨hne, hsep⟩ := hall nzp
  exact ⟨hne, hsep⟩

theorem familyOf_brMnemonic : ∀ nzp : BitVec 3, familyOf ((brMnemonic nzp).map upperCode) =
    some (.br (if nzp = 0#3 then 0b111#3 else nzp)) := by
  decide

/-- What the decoder reads from a word is printed as a line that reads it back. -/
theorem parseLine_render_of_reads (h : Reads w i) (hi : i ≠ .illegal) : parseLine (render i) = .ok (readBack i) := by
  cases h
  case illegal => contradiction
  case br =>
    rw [render_of_translation (translation_brOf _ _), readBack_brOf]
    exact parseLine_offset (isRun_brMnemonic _) (familyOf_brMnemonic _) (fun _ => rfl) le_rfl _
  case addR | andR => exact parseLine_operate_reg ⟨by decide, by decide⟩ rfl (fun _ => rfl) le_rfl _ _ _
  case addI | andI => exact parseLine_operate_imm ⟨by decide, by decide⟩ rfl (fun _ => rfl) le_rfl _ _ _
  case ld | ldi | lea | st | sti => exact parseLine_regOffset ⟨by decide, by decide⟩ rfl (fun _ => rfl) le_rfl _ _
  case ldr | str => exact parseLine_regBaseOffset ⟨by decide, by decide⟩ rfl (fun _ => rfl) le_rfl _ _ _
  case jsr => exact parseLine_offset ⟨by decide, by decide⟩ rfl (fun _ => rfl) le_rfl _
  case jmp | jsrr => exact parseLine_base ⟨by decide, by decide⟩ rfl (fun _ => rfl) le_rfl _
  case ret | rti => exact parseLine_noOperand ⟨by decide, by decide⟩ rfl (fun _ => rfl) le_rfl
  case notR => exact parseLine_notR _ _
  case trap => exact parseLine_trap _

theorem parseLine_render (hwf : i.wellFormed = true) : parseLine (render i) = .ok (readBack i) := by
  obtain ⟨w, hencode⟩ := exists_encodeWith Config.notFill hwf
  refine parseLine_render_of_reads (reads_of_encodeWith hwf hencode) ?_
  rintro rfl
  cases hwf

end Sys2Proof.Machine
end

section
/-! PROOF. What a line encodes to survives a decode and a re-encode (45_text_encode.md R249; 47_properties.md R321,
R322). -/

namespace Sys2Proof.Machine

variable {w : Word} {i : Instr}

/-! The word that canonical text encodes to. -/

theorem encodeBr_nzp (off9 : Int) : encodeBr 0b111#3 off9 = encodeBr 0b000#3 off9 ||| 0x0E00#16 := by
  simp [encodeBr, place, BitVec.or_comm]

theorem extractLsb'_of_decodeWord_eq_brNone {off9 : Int} (h : decodeWord w = .brNone off9) :
    w.extractLsb' 9 7 = 0#7 := by
  have hopcode : w.extractLsb' 12 4 = 0b0000#4 := by
    have hopcodeOf := opcode_decodeWord w
    rw [h] at hopcodeOf
    exact hopcodeOf.symm
  have hnzp : w.extractLsb' 9 3 = 0b000#3 :=
    nzp_eq_zero_of_brOf_eq_brNone ((decodeWord_of_reads (.br hopcode)).symm.trans h)
  have happend : w.extractLsb' 12 4 ++ w.extractLsb' 9 3 = w.extractLsb' 9 7 :=
    BitVec.extractLsb'_append_extractLsb'_eq_extractLsb' rfl
  rw [← happend, hopcode, hnzp]
  rfl

/-- Reading a legal word's canonical text back and encoding it gives the text-canonical word (R321, R322): what the
decoder drops is filled, and BR of 000 gets 111. -/
theorem encode_readBack_decodeWord (hlegal : opcodeOf w ≠ 0b1101#4) :
    encode (readBack (decodeWord w)) = some (canonT w) := by
  have hcanonF : encode (decodeWord w) = some (canonF Config.notFill w) := encodeWith_decodeWord _ hlegal
  rw [canonT]
  split
  next hbr =>
    have hdecode : decodeWord w = .brNone _ := decodeWord_of_nzp 0b000#3 hbr
    rw [hdecode] at hcanonF ⊢
    rw [← Option.some.inj hcanonF, ← encodeBr_nzp]
    rfl
  next hbr =>
    have hself : readBack (decodeWord w) = decodeWord w :=
      readBack_of_ne_brNone fun _ h => hbr (extractLsb'_of_decodeWord_eq_brNone h)
    rw [hself, hcanonF]

/-- A legal word's canonical text encodes to the text-canonical word (R222, R322). -/
theorem codecEncodeText_render_decodeWord (hlegal : opcodeOf w ≠ 0b1101#4) :
    codecEncodeText (render (decodeWord w)) = .ok (canonT w) := by
  have hparse := parseLine_render (decodedInstructionsAreWellFormed w hlegal)
  rw [codecEncodeText_eq_bind, hparse, ok_bind, assemble_of_encode (encode_readBack_decodeWord hlegal)]
  rfl

/-! A line's word (R249). -/

/-- What a line can write survives encoding, decoding, printing and reading; JMP R7 does so as RET. -/
theorem encode_readBack_of_written (hi : Written i) (h : encode i = some w) :
    encode (readBack (decodeWord w)) = some w := by
  cases hi with
  | wellFormed hwf hbr => rw [decodeWord_of_encodeWith hwf h, readBack_of_ne_brNone hbr, h]
  | jmpSeven =>
    obtain rfl : 0xC1C0#16 = w := Option.some.inj h
    rfl

/-- Settles O49: every legal word's canonical text encodes to the text-canonical word, and what a line writes is read
back from its own word's text, so its word is text-canonical. -/
theorem encodedLineIsStable : Obligations.EncodedLineIsStable := by
  intro line w h
  obtain ⟨i, hparse, hencode⟩ := encode_of_codecEncodeText h
  have hlegal : opcodeOf w ≠ 0b1101#4 := opcodeOf_ne_reserved_of_encode hencode
  have hcanon : canonT w = w := Option.some.inj <|
    (encode_readBack_decodeWord hlegal).symm.trans (encode_readBack_of_written (written_of_parseLine hparse) hencode)
  refine ⟨hcanon, _, codecDecodeText_bin16 hlegal, ?_⟩
  rw [codecEncodeText_render_decodeWord hlegal, hcanon]

end Sys2Proof.Machine
end

section
/-! PROOF. The word and the text layer together: a legal word's text is a line of its canonical word, and text tells
instructions apart up to BR's two spellings of `BRnzp` (47_properties.md R322, R324; 44_text_decode.md R222). -/

namespace Sys2Proof.Machine

variable {i j : Instr}

/-- Settles O48: the sixteen characters decode to the word's canonical text, which encodes to its canonical word. -/
theorem wordToTextToWord : Obligations.WordToTextToWord :=
  fun _ hlegal => ⟨_, codecDecodeText_bin16 hlegal, codecEncodeText_render_decodeWord hlegal⟩

/-! Which instructions are printed alike. -/

theorem readBack_cases (i : Instr) :
    readBack i = i ∨ ∃ off9, i = .brNone off9 ∧ readBack i = .brNZP off9 := by
  by_cases h : ∃ off9, i = .brNone off9
  · obtain ⟨off9, rfl⟩ := h
    exact .inr ⟨off9, rfl, rfl⟩
  · exact .inl (readBack_of_ne_brNone (not_exists.mp h))

/-- BR of 000 is printed as the BR of 111 that it is read back as (R219). -/
theorem render_readBack (i : Instr) : render (readBack i) = render i := by
  obtain hself | ⟨off9, rfl, -⟩ := readBack_cases i
  · rw [hself]
  · rfl

/-- Text determines what it is read back as, and is determined by it. -/
theorem render_eq_render_iff (hi : i.wellFormed = true) (hj : j.wellFormed = true) :
    render i = render j ↔ readBack i = readBack j := by
  constructor
  · intro h
    have hparse := parseLine_render hi
    rw [h, parseLine_render hj] at hparse
    exact (Except.ok.inj hparse).symm
  · intro h
    rw [← render_readBack i, h, render_readBack]

theorem readBack_eq_readBack_iff (hne : i ≠ j) : readBack i = readBack j ↔
    ∃ off9 : Int, (i = .brNone off9 ∧ j = .brNZP off9) ∨ (i = .brNZP off9 ∧ j = .brNone off9) := by
  constructor
  · intro h
    obtain hi | ⟨offI, hi, hrI⟩ := readBack_cases i <;> obtain hj | ⟨offJ, hj, hrJ⟩ := readBack_cases j
    · exact absurd (hi.symm.trans (h.trans hj)) hne
    · exact ⟨offJ, .inr ⟨hi.symm.trans (h.trans hrJ), hj⟩⟩
    · exact ⟨offI, .inl ⟨hi, hj.symm.trans (h.symm.trans hrI)⟩⟩
    · have hoff : offI = offJ := Instr.brNZP.inj (hrI.symm.trans (h.trans hrJ))
      exact absurd (by rw [hi, hj, hoff]) hne
  · rintro ⟨off9, ⟨rfl, rfl⟩ | ⟨rfl, rfl⟩⟩ <;> rfl

/-- Settles O50: canonical text is read back as its instruction, except that BR of 000 becomes BR of 111. -/
theorem textTellsInstructionsApart : Obligations.TextTellsInstructionsApart :=
  fun _ _ hi hj hne => (render_eq_render_iff hi hj).trans (readBack_eq_readBack_iff hne)

end Sys2Proof.Machine
end

section
/-! PROOF. The four functions are total and independent of one another: a step leaves on each group one outcome, which
is the function of that group's inputs (47_properties.md R328, R329). -/

namespace Sys2Proof.Machine

/-- Settling the word encoder's group reads its seven inputs and neither of its outputs. -/
theorem settledEncFields_congr {p q : EncFieldsPorts} (hkind : q.kind = p.kind) (hra : q.ra = p.ra) (hrb : q.rb = p.rb)
    (hrc : q.rc = p.rc) (hnzp : q.nzp = p.nzp) (himm : q.imm = p.imm) (hvec : q.vec = p.vec) :
    settledEncFields q = settledEncFields p := by
  simp only [settledEncFields_eq, hkind, hra, hrb, hrc, hnzp, himm, hvec]

/-- Settles O58: a step answers `settle`, whose groups are each settled on their own inputs. -/
theorem groupsAreIndependent : Obligations.GroupsAreIndependent := by
  intro s s' t t' hstep hstep'
  rw [eq_settle_of_step hstep, eq_settle_of_step hstep']
  exact ⟨congrArg settledDecWord, settledEncFields_congr, congrArg settledDecText, congrArg settledEncText⟩

/-! The outcome on each group; ENCODE_FIELDS's is `settledEncFields_ok_iff`. -/

theorem settledDecWord_outcome (w : Word) :
    ((settledDecWord w).ok = true ∧ (settledDecWord w).err = 0#2) ∨
      ((settledDecWord w).ok = false ∧ (settledDecWord w).err = DecFailure.unknownOpcode.code) := by
  unfold settledDecWord
  cases h : codecDecodeWord w with
  | ok r => exact .inl ⟨rfl, rfl⟩
  | error f => exact .inr ⟨rfl, congrArg DecFailure.code (codecDecodeWord_error h)⟩

theorem settledDecText_outcome (raw : Text) :
    ((settledDecText raw).ok = true ∧ (settledDecText raw).err = 0#2) ∨
      ((settledDecText raw).ok = false ∧ ∃ f : DecFailure, (settledDecText raw).err = f.code) := by
  unfold settledDecText
  cases codecDecodeText raw with
  | ok t => exact .inl ⟨rfl, rfl⟩
  | error f => exact .inr ⟨rfl, f, rfl⟩

theorem settledEncText_outcome (raw : Text) :
    ((settledEncText raw).ok = true ∧ (settledEncText raw).err = 0#3) ∨
      ((settledEncText raw).ok = false ∧ ∃ f : EncFailure, (settledEncText raw).err = f.code) := by
  unfold settledEncText
  cases codecEncodeText raw with
  | ok w => exact .inl ⟨rfl, rfl⟩
  | error f => exact .inr ⟨rfl, f, rfl⟩

/-- Settles O54: a step answers `settle s`, with an outcome on each group; that the same inputs give the same outcome is
O58, for all four groups at once. -/
theorem stepAlwaysCompletes : Obligations.StepAlwaysCompletes := by
  refine ⟨fun s => ⟨settle s, step_eq_settle s, settledDecWord_outcome _, settledEncFields_ok_iff _,
    settledDecText_outcome _, settledEncText_outcome _⟩, ?_⟩
  intro s s' t t' hsame hstep hstep'
  obtain ⟨hword, ⟨hkind, hra, hrb, hrc, hnzp, himm, hvec⟩, hdecText, hencText⟩ := hsame
  obtain ⟨ofWord, ofFields, ofDecText, ofEncText⟩ := groupsAreIndependent s s' t t' hstep hstep'
  exact ⟨ofWord hword, ofFields hkind hra hrb hrc hnzp himm hvec, ofDecText hdecText, ofEncText hencText⟩

end Sys2Proof.Machine
end

section
/-! PROOF. The signed reading of a field is two's complement, for every width (00_scope.md R10; 47_properties.md
R325). -/

namespace Sys2Proof

variable {n : Nat}

theorem sext_eq_ite (v : BitVec n) :
    sext v = if v.getLsbD (n - 1) then (v.toNat : Int) - 2 ^ n else (v.toNat : Int) := by
  rw [sext, BitVec.toInt_eq_msb_cond, BitVec.msb_eq_getLsbD_last, Nat.cast_pow, Nat.cast_ofNat]

theorem sext_neg_iff (v : BitVec n) : sext v < 0 ↔ v.getLsbD (n - 1) = true := by
  rw [← BitVec.msb_eq_getLsbD_last, BitVec.msb_eq_toInt, decide_eq_true_iff, sext]

theorem sext_emod (v : BitVec n) : sext v % (2 : Int) ^ n = v.toNat := by
  rw [← natCast_toNat_trunc, trunc_sext]

/-- As a wider pattern the field keeps its bits, and its top bit is copied above them. -/
theorem getLsbD_trunc_sext (v : BitVec n) {W k : Nat} (hk : k < W) :
    (trunc W (sext v)).getLsbD k = if k < n then v.getLsbD k else v.getLsbD (n - 1) := by
  have hextend : trunc W (sext v) = v.signExtend W := rfl
  rw [hextend, BitVec.getLsbD_signExtend, decide_eq_true hk, Bool.true_and, BitVec.msb_eq_getLsbD_last]

/-- Settles O1: `sext` is the reading by the top bit; its range is a well-formed
immediate's, and its remainder, by O2, the field it truncates back to. -/
theorem signExtensionReadsTwosComplement : Obligations.SignExtensionReadsTwosComplement := by
  intro n v _
  exact ⟨sext_eq_ite v, (inRange_iff _ _ _).mp (inRange_sext v), sext_neg_iff v, sext_emod v,
    fun W k _ hk => getLsbD_trunc_sext v hk⟩

end Sys2Proof
end

section
/-! PROOF. What a failure drives: `ok` = 0, its code of R272, which is never 0, and every data output 0 or empty
(60_exceptions.md R272, R273). The word encoder has no code; its data is `settledEncFields_word_of_not_ok`. -/

namespace Sys2Proof.Machine

theorem DecFailure.code_ne_zero (f : DecFailure) : f.code ≠ 0#2 := by
  cases f <;> decide

theorem EncFailure.code_ne_zero (f : EncFailure) : f.code ≠ 0#3 := by
  cases f <;> decide

theorem EncFailure.toNat_code_le (f : EncFailure) : f.code.toNat ≤ 5 := by
  cases f <;> decide

/-! The word decoder's group. -/

theorem settledDecWord_of_error {w : Word} {f : DecFailure} (h : codecDecodeWord w = .error f) :
    settledDecWord w = { word := w, ok := false, err := f.code, kind := 0#5, opcode := w.extractLsb' 12 4, ra := 0#3,
                         rb := 0#3, rc := 0#3, nzp := 0#3, imm := 0#16, vec := 0#8 } := by
  rw [settledDecWord, h]

theorem settledDecWord_err_eq_zero_iff (w : Word) : (settledDecWord w).err = 0#2 ↔ (settledDecWord w).ok = true := by
  obtain ⟨hok, herr⟩ | ⟨hok, herr⟩ := settledDecWord_outcome w
  · simp [hok, herr]
  · simp [hok, herr, DecFailure.code_ne_zero]

theorem settledDecWord_err_cases (w : Word) : (settledDecWord w).err = 0#2 ∨ (settledDecWord w).err = 3#2 :=
  (settledDecWord_outcome w).imp And.right And.right

theorem settledDecWord_data_of_not_ok {w : Word} (h : (settledDecWord w).ok = false) :
    (settledDecWord w).kind = 0#5 ∧ (settledDecWord w).ra = 0#3 ∧ (settledDecWord w).rb = 0#3 ∧
      (settledDecWord w).rc = 0#3 ∧ (settledDecWord w).nzp = 0#3 ∧ (settledDecWord w).imm = 0#16 ∧
      (settledDecWord w).vec = 0#8 := by
  cases hcodec : codecDecodeWord w with
  | ok r => simp [settledDecWord, hcodec] at h
  | error f => simp [settledDecWord_of_error hcodec]

/-! The text decoder's group. -/

theorem settledDecText_of_error {raw : Text} {f : DecFailure} (h : codecDecodeText raw = .error f) :
    settledDecText raw = { textIn := raw, ok := false, err := f.code, textOut := [] } := by
  rw [settledDecText, h]

theorem settledDecText_err_eq_zero_iff (raw : Text) :
    (settledDecText raw).err = 0#2 ↔ (settledDecText raw).ok = true := by
  obtain ⟨hok, herr⟩ | ⟨hok, f, herr⟩ := settledDecText_outcome raw
  · simp [hok, herr]
  · simp [hok, herr, f.code_ne_zero]

theorem settledDecText_textOut_of_not_ok {raw : Text} (h : (settledDecText raw).ok = false) :
    (settledDecText raw).textOut = [] := by
  cases hcodec : codecDecodeText raw with
  | ok t => simp [settledDecText, hcodec] at h
  | error f => simp [settledDecText_of_error hcodec]

/-! The text encoder's group. -/

theorem settledEncText_of_error {raw : Text} {f : EncFailure} (h : codecEncodeText raw = .error f) :
    settledEncText raw = { textIn := raw, ok := false, err := f.code, word := 0#16, bitsOut := [] } := by
  rw [settledEncText, h]

theorem settledEncText_err_eq_zero_iff (raw : Text) :
    (settledEncText raw).err = 0#3 ↔ (settledEncText raw).ok = true := by
  obtain ⟨hok, herr⟩ | ⟨hok, f, herr⟩ := settledEncText_outcome raw
  · simp [hok, herr]
  · simp [hok, herr, f.code_ne_zero]

theorem settledEncText_toNat_err_le (raw : Text) : (settledEncText raw).err.toNat ≤ 5 := by
  obtain ⟨-, herr⟩ | ⟨-, f, herr⟩ := settledEncText_outcome raw
  · simp [herr]
  · rw [herr]
    exact f.toNat_code_le

theorem settledEncText_data_of_not_ok {raw : Text} (h : (settledEncText raw).ok = false) :
    (settledEncText raw).word = 0#16 ∧ (settledEncText raw).bitsOut = [] := by
  cases hcodec : codecEncodeText raw with
  | ok w => simp [settledEncText, hcodec] at h
  | error f => simp [settledEncText_of_error hcodec]

/-- Settles O59: a step answers `settle s`, so each clause is about one settled group, whose outcome is its function's:
success with code 0, or a failure that drives its own code and no data. -/
theorem failureDrivesOnlyItsCode : Obligations.FailureDrivesOnlyItsCode := by
  refine ⟨fun s t hstep => ?_, ⟨rfl, rfl, rfl, rfl, rfl, rfl, rfl, rfl⟩, fun f s t hstep hfail => ?_,
    fun f s t hstep hfail => ?_, fun f s t hstep hfail => ?_⟩ <;> rw [eq_settle_of_step hstep]
  · exact ⟨settledDecWord_err_eq_zero_iff _, settledDecWord_err_cases _, settledDecWord_data_of_not_ok,
      settledEncFields_word_of_not_ok, settledDecText_err_eq_zero_iff _, settledDecText_textOut_of_not_ok,
      settledEncText_err_eq_zero_iff _, settledEncText_toNat_err_le _, settledEncText_data_of_not_ok⟩
  · simp [settledDecWord_of_error hfail]
  · simp [settledDecText_of_error hfail]
  · simp [settledEncText_of_error hfail]

end Sys2Proof.Machine
end
